-- ==== Sys2Proof/Word.lean ====
section
/-! DEFINITION. The word and address types of the part (00_scope.md 4.1) and the fixed-size tables the state is
built from. -/

namespace Sys2Proof

/-- A word is 16 bits (00_scope.md 4.1). -/
abbrev Word := BitVec 16

/-- Addresses on both ports are 20-bit word addresses (00_scope.md 4.1). -/
abbrev Addr := BitVec 20

/-- A count of seconds from the start of day 0, below `Config.epochCycle` (00_scope.md 4.3, R140). -/
abbrev Epoch := Nat

/-- A fixed number of like things, numbered from 0 (00_scope.md 4.5). -/
abbrev Tab (n : Nat) (α : Type) := Vector α n

/-- The table whose entry `i` is `f i`. -/
def Tab.ofFn {n : Nat} {α : Type} (f : Fin n → α) : Tab n α := ⟨⟨List.ofFn f⟩, by simp⟩

/-- Entry `i`. -/
def Tab.at {n : Nat} {α : Type} (t : Tab n α) (i : Fin n) : α := t[i.val]

/-- The table with entry `i` replaced. -/
def Tab.put {n : Nat} {α : Type} (t : Tab n α) (i : Fin n) (a : α) : Tab n α := t.set i.val a i.isLt

/-- The table with one value in every place. -/
def Tab.all {n : Nat} {α : Type} (a : α) : Tab n α := Vector.replicate n a

/-- The numbers at which `p` holds, in rising order. -/
def Tab.numbers (n : Nat) (p : Fin n → Bool) : List (Fin n) := (List.finRange n).filter p

end Sys2Proof
end

