-- ==== Sys2Proof/Syntax.lean ====
section
/-! DEFINITION. The commands of the part: one constructor per row of spec/opcode_table.json. The table gives no bits
and no operands; the operands are what the row's rule reads from outside the part (log 27). -/

namespace Sys2Proof

/-- The master driving a cycle, by the initiator code on UIC (R149). -/
inductive Initiator where
  | host   -- code 0, the dispatch processor
  | link   -- code 1, the telemetry link controller
  | panel  -- code 2, the maintenance panel
  | other  -- code 3
  deriving DecidableEq, Repr

/-- An upstream cycle as a master presents it: UA, UWR, UBL, UIC and, for a write, UD (R147). -/
structure Cycle where
  addr  : Addr
  write : Bool
  lanes : BitVec 2
  init  : Initiator
  data  : Word
  deriving DecidableEq, Repr

/-- Both byte lanes set is a full-width cycle; one lane or neither is a partial cycle (R147). -/
def Cycle.full (c : Cycle) : Bool := c.lanes == 3#2

/-- The three counters of the status block (R194). -/
inductive Counter where
  | duplicate
  | incomplete
  | missed
  deriving DecidableEq, Repr

/-- The commands: every row of spec/opcode_table.json, in the table's order. -/
inductive Instr where
  | resetnAssert
  | resetnRelease (imgsel : BitVec 4)
  | secondBoundary
  | confirmExpiry (pump : Fin 32)
  | runEnd (pump : Fin 32)
  | guardExpiry (group : Fin 8)
  | staleExpiry (house : Fin 12)
  | releasePass
  | submitAdvance
  | takeAdvance
  | slotWordWrite
  | reportWordWrite
  | sequenceWordWrite
  | passedCycle (c : Cycle)
  | memoryAcknowledge (data : Word)
  | memoryPortTimeout
  | cycleAbandon
  | refusedCycle (c : Cycle)
  | strayRead (addr : Addr) (lanes : BitVec 2)
  | cancelRequest (addr : Addr) (data : Word)
  | fetchRead (data : Word)
  | indexStall
  | indexRead (data : Word)
  | run
  | hold
  | reload
  | setTime
  | cancelTag
  | withdrawHouse
  | clearLockout
  | unknownCommand (code : Word)
  | sweepVisit
  | flagClearWrite (value : Word)
  | enableWrite (value : Word)
  | counterClear (counter : Counter) (value : Word)
  | argumentWordWrite (number : Fin 3) (value : Word)
  deriving DecidableEq, Repr

end Sys2Proof
end

