-- ==== Sys2Proof/Decode.lean ====
section
/-! DEFINITION. Commands spelled by a table row's bits. spec/opcode_table.json gives no row any bits (98_reader.md:
n_rows_with_fixed 0, n_rows_with_fields 0), so no word spells a command (log 27). How the part decodes a bus cycle is
its behaviour and stands in Machine/Passage.lean. -/

namespace Sys2Proof

/-- No row of the table gives bits, so no word spells a command. -/
def decodeTableWord (_nbits _w : Nat) : Option Instr := none

end Sys2Proof
end

