-- ==== Sys2Proof/Config.lean ====
section
/-! DEFINITION. What is fixed for every LKD-3264. -/

namespace Sys2Proof

/-- The length of the clock's cycle: the clock returns to 0 after 4,294,943,999 (R140). -/
def Config.epochCycle : Nat := 4294944000

/-- TREF periods between two second boundaries (R132). -/
def Config.trefPerSecond : Nat := 32768

/-- The memory-port timeout while no image is in force, in microseconds (R158). -/
def Config.bareTimeout : Nat := 64

/-- The largest value of the energy tally (R136). -/
def Config.tallyMax : Nat := 16777215

/-- The largest image, in words (9.2, R169). -/
def Config.imageMax : Nat := 552

end Sys2Proof
end

