-- ==== Sys2Proof/Machine/State.lean ====
section
/-! DEFINITION. The state of the part, block by block (00_scope.md 3.1), and the state after RESETN. INVENTORY.md lists
every piece with the rule that names it. -/

namespace Sys2Proof.Machine

/-! ### The tables in force (R44, R158, R163, R166, R167) -/

/-- The four ring sizes (R1, 11.7). -/
inductive RingSize where
  | n8
  | n16
  | n32
  | n64
  deriving DecidableEq, Repr

/-- N, the number of ring slots (R1). -/
def RingSize.slots : RingSize → Nat
  | .n8 => 8
  | .n16 => 16
  | .n32 => 32
  | .n64 => 64

/-- The window map (R163): ring base and N, the two index word addresses, report area base and house count. -/
structure WindowMap where
  ringBase   : Addr
  ringSize   : RingSize
  submitAddr : Addr
  takeAddr   : Addr
  reportBase : Addr
  houseCount : Fin 13
  deriving DecidableEq, Repr

/-- The static fields of a pump record (R44). -/
structure PumpStatic where
  house          : Fin 12
  position       : Fin 4
  feeder         : Fin 4
  runningUnits   : Nat
  startingUnits  : Nat
  minRun         : Nat
  minRest        : Nat
  startsPerHour  : Nat
  confirmTimeout : Nat
  deriving DecidableEq, Repr

/-- A house entry (R167). -/
structure HouseStatic where
  suction    : Fin 16
  delivery   : Fin 16
  group      : Fin 8
  surgeGuard : Nat
  staleTime  : Nat
  deriving DecidableEq, Repr

/-- A reservoir entry (R167); levels in centimetres. -/
structure ReservoirStatic where
  fixed      : Bool
  trip       : Nat
  lowSuction : Nat
  high       : Nat
  deriving DecidableEq, Repr

/-- A band entry (R144); the cap is in units of 16 load-unit-minutes, 0 meaning none. -/
structure Band where
  floor : Nat
  cap   : Nat
  deriving DecidableEq, Repr

/-- The tables of one image. Entries at or beyond a count are not configured and are never read. -/
structure Tables where
  map            : WindowMap
  pumpCount      : Fin 33
  reservoirCount : Fin 17
  feederCount    : Fin 5
  defaultWindow  : Nat
  timeout        : Nat
  pumps          : Tab 32 PumpStatic
  houses         : Tab 12 HouseStatic
  reservoirs     : Tab 16 ReservoirStatic
  limits         : Tab 4 Nat
  bands          : Tab 48 Band
  deriving DecidableEq, Repr

/-! ### Bus Passage Unit -/

/-- The causes of the fault capture record (R156). -/
inductive FaultCause where
  | none
  | initiator
  | access
  | width
  | state
  | advance
  | submitted
  | badRequest
  | stray
  | timeout
  deriving DecidableEq, Repr

/-- The kinds of the fault capture record (R157). -/
inductive FaultKind where
  | none
  | protectViolation
  | indexFault
  | busTimeout
  deriving DecidableEq, Repr

/-- The fault capture record (R157). -/
structure Capture where
  kind  : FaultKind
  addr  : Addr
  init  : Initiator
  cause : FaultCause
  deriving DecidableEq, Repr

/-- The two requesters of the memory port (R161). -/
inductive Requester where
  | master
  | loader
  deriving DecidableEq, Repr

/-- The owner's effect that a snooped write takes at its acknowledge (R153). -/
inductive SnoopTarget where
  | slotWord (slot : Fin 64) (word : Fin 6)        -- R26
  | submitWord                                     -- R5
  | takeWord                                       -- R8
  | reportWord (house : Fin 12) (word : Fin 7)     -- R100
  | sequenceWord (house : Fin 12)                  -- R101
  deriving DecidableEq, Repr

/-- The outcomes that make a memory-port cycle (R151). -/
inductive MemOutcome where
  | pass
  | snoop (target : SnoopTarget)
  | redirect (addr : Addr)
  deriving DecidableEq, Repr

/-- How far the upstream cycle in progress has come (R150, R151): held before its decode by a stall, decoded and
waiting for grant, or in flight on the memory port. A cycle ended at its decode is in progress after no step. -/
inductive UpStage where
  | held
  | waiting (outcome : MemOutcome)
  | inFlight (outcome : MemOutcome)
  deriving DecidableEq, Repr

/-- The upstream cycle in progress; abandoned when its master has dropped USTB after the decode (R147). -/
structure UpCycle where
  cycle     : Cycle
  stage     : UpStage
  abandoned : Bool
  deriving DecidableEq, Repr

/-- The upstream ending last driven (R147): none since the last cycle began, UACK with data for a read, or UERR. -/
inductive UpEnding where
  | idle
  | ack (data : Option Word)
  | err
  deriving DecidableEq, Repr

/-- The memory-port cycle in flight (R148), with the timeout it is timed by (R158). -/
structure MemCycle where
  owner   : Requester
  addr    : Addr
  write   : Bool
  lanes   : BitVec 2
  data    : Word
  timeout : Nat
  deriving DecidableEq, Repr

/-- The Bus Passage Unit and the two station inputs it stands behind. -/
structure Bpu where
  resetn     : Bool            -- RESETN asserted
  imgsel     : BitVec 4        -- as sampled at the release of RESETN (R164)
  timeout    : Nat             -- memory-port timeout in force, microseconds (R158)
  capture    : Capture
  lastGrant  : Requester
  memPort    : Option MemCycle
  upstream   : Option UpCycle
  ending     : UpEnding
  indexStall : Bool            -- R160
  deriving DecidableEq, Repr

/-! ### Ring Tracker -/

/-- The origin of a release list entry (R12). -/
inductive Origin where
  | host (slot : Fin 64)
  | internal (entry : Fin 8)
  deriving DecidableEq, Repr

/-- One entry of the release list (R12, R13). -/
structure Released where
  origin : Origin
  grant  : Epoch
  deriving DecidableEq, Repr

/-- The four indexes and the release list (R2, R12). -/
structure Rt where
  submit  : Word
  reclaim : Word
  release : Word
  take    : Word
  list    : List Released
  deriving DecidableEq, Repr

/-! ### Order Book -/

/-- Reason codes of 11.8. -/
inductive Reason where
  | none
  | pending
  | held
  | queue
  | notYet
  | pumpBusy
  | lockout
  | stale
  | rest
  | allowance
  | localControl
  | guard
  | interlock
  | load
  | level
  | floor
  | cap
  | room
  | minRun
  | clockNotSet
  | incomplete
  | badForm
  | badAction
  | badPump
  | badTime
  | badField
  | tooLate
  | queueFull
  | alreadyRunning
  | notRunning
  | lockedOut
  | hostCancel
  | tagSweep
  | houseWithdrawn
  deriving DecidableEq, Repr

/-- The states of an order entry (R21). -/
inductive EntryState where
  | free
  | waiting
  | released
  | dispatched
  | refused
  | cancelled
  | expired
  deriving DecidableEq, Repr

inductive Form where
  | short
  | long
  deriving DecidableEq, Repr

inductive Action where
  | start
  | stop
  deriving DecidableEq, Repr

/-- A parsed order (R21). Run seconds are 0 for an open run or for a STOP (R33). -/
structure Order where
  form     : Form
  action   : Action
  pump     : Fin 32
  priority : Nat
  earliest : Epoch
  latest   : Epoch
  run      : Nat
  tag      : Word
  deriving DecidableEq, Repr

/-- An Order Book entry (R21). Word w is marked in the seen mask exactly when `words` holds a value for it (log 18). -/
structure Entry where
  state : EntryState
  words : Tab 6 (Option Word)
  order : Option Order
  reason : Reason
  grant : Option Epoch
  mark  : Bool
  late  : Bool
  deriving DecidableEq, Repr

/-- The FREE condition of R21. -/
def Entry.reset : Entry :=
  { state := .free, words := Tab.all none, order := none, reason := .none, grant := none, mark := false, late := false }

/-! ### Release Arbiter -/

/-- The Release Arbiter owns no lasting record but the passes requested and not yet run (R73, R74). -/
structure Ra where
  requests : Nat
  deriving DecidableEq, Repr

/-! ### Pump State Unit -/

/-- A timer that produces an event (R60): its absolute expiry, and whether a second boundary has found it reached and
the event has not yet been taken (log 12). -/
structure Timer where
  expiry : Epoch
  due    : Bool
  deriving DecidableEq, Repr

/-- The pump states (R45). -/
inductive PumpState where
  | unknown
  | stopped
  | startSent
  | starting
  | running
  | stopSent
  | stopping
  | lockout
  deriving DecidableEq, Repr

inductive LockReason where
  | none
  | fault
  | noStartConfirm
  | noStopConfirm
  deriving DecidableEq, Repr

/-- The dynamic fields of a pump record (R45). -/
structure PumpRec where
  state      : PumpState
  lock       : LockReason
  allowance  : Nat
  confirm    : Option Timer
  minRun     : Option Epoch
  rest       : Option Epoch
  orderedRun : Option Nat
  runEnd     : Option Timer
  started    : Bool
  deriving DecidableEq, Repr

/-- The RESETN values of R45. -/
def PumpRec.reset : PumpRec :=
  { state := .unknown, lock := .none, allowance := 0, confirm := none, minRun := none, rest := none,
    orderedRun := none, runEnd := none, started := false }

/-- A main group record (R67): the armed house and release position are present in ARMED and GUARD, the guard expiry
in GUARD. -/
inductive GroupRec where
  | quiet
  | armed (house : Fin 12) (position : Word)
  | guard (house : Fin 12) (position : Word) (expiry : Timer)
  deriving DecidableEq, Repr

structure Psu where
  pumps  : Tab 32 PumpRec
  groups : Tab 8 GroupRec
  deriving DecidableEq, Repr

/-! ### Report Snoop Unit -/

/-- House freshness with its stale expiry (R108). -/
inductive Freshness where
  | never
  | fresh (expiry : Timer)
  | stale
  deriving DecidableEq, Repr

/-- An assembly buffer (R99): a seen bit for word 0, and words 1 to 6 at places 0 to 5, seen when present. -/
structure AssemblyBuffer where
  clockSeen : Bool
  words     : Tab 6 (Option Word)
  deriving DecidableEq, Repr

def AssemblyBuffer.clear : AssemblyBuffer := { clockSeen := false, words := Tab.all none }

structure HouseRec where
  freshness    : Freshness
  localControl : Bool
  lastSequence : Option Word
  buffer       : AssemblyBuffer
  deriving DecidableEq, Repr

/-- R112. -/
def HouseRec.reset : HouseRec :=
  { freshness := .never, localControl := false, lastSequence := none, buffer := AssemblyBuffer.clear }

/-- The plant image, the assembly buffers and the report counters. -/
structure Rsu where
  houses      : Tab 12 HouseRec
  levels      : Tab 16 (Option Nat)
  runningBits : Tab 32 Bool
  faultBits   : Tab 32 Bool
  duplicates  : Word
  incompletes : Word
  deriving DecidableEq, Repr

/-! ### Interlock Unit -/

/-- Causes of an internal order (R115). -/
inductive Cause where
  | lowSuction
  | highDelivery
  | fault
  | timed
  deriving DecidableEq, Repr

inductive StopKind where
  | tripStop
  | timedStop
  deriving DecidableEq, Repr

/-- The fields of an internal order (R115). -/
structure InternalOrder where
  pump   : Fin 32
  kind   : StopKind
  cause  : Cause
  raised : Epoch
  seq    : Nat
  deriving DecidableEq, Repr

/-- A store entry (R115): its fields are present while it is in use, its grant time while it is RELEASED. -/
inductive StoreEntry where
  | free
  | waiting (order : InternalOrder)
  | released (order : InternalOrder) (grant : Epoch)
  deriving DecidableEq, Repr

structure Ilu where
  store   : Tab 8 StoreEntry
  nextSeq : Nat
  owed    : Tab 32 (Option Cause)
  deriving DecidableEq, Repr

/-! ### Clock and Band Unit -/

/-- The state enumerated at the head of chapter 7. -/
structure Cbu where
  clockSet   : Bool
  now        : Epoch
  divider    : Nat
  band       : Fin 48
  tally      : Nat
  capReached : Bool
  deriving DecidableEq, Repr

/-! ### Image Loader -/

inductive LoadKind where
  | none
  | powerOn
  | reload
  deriving DecidableEq, Repr

/-- The phases of R168. A reload stands in COMPLETE from the second index read to the completion event (R176). -/
inductive LoadPhase where
  | idle
  | header
  | body
  | index
  | complete
  deriving DecidableEq, Repr

inductive LoadOrigin where
  | hold
  | unloaded
  deriving DecidableEq, Repr

/-- Image reasons (R168). -/
inductive ImageReason where
  | none
  | busTimeout
  | format
  | length
  | checksum
  | range
  | overlap
  | topology
  | plantMismatch
  | notQuiet
  deriving DecidableEq, Repr

/-- The state of the one load that may be in progress (R168). -/
structure Iml where
  kind        : LoadKind
  phase       : LoadPhase
  origin      : Option LoadOrigin
  nextFetch   : Nat
  sum         : Word
  staging     : List Word
  indexSubmit : Option Word
  indexTake   : Option Word
  reason      : ImageReason
  deriving DecidableEq, Repr

/-- IDLE: no load in progress, staging tables and index values discarded (R168). That the origin state is absent, the
running sum 0 and the next fetch address word 0 in IDLE after a load too is the model's choice (log 30). -/
def Iml.idleWith (reason : ImageReason) : Iml :=
  { kind := .none, phase := .idle, origin := none, nextFetch := 0, sum := 0, staging := [], indexSubmit := none,
    indexTake := none, reason }

/-! ### Command and Status Unit -/

/-- The scheduler states (R180). -/
inductive Sched where
  | loading
  | unloaded
  | hold
  | run
  | reloading
  deriving DecidableEq, Repr

inductive CommandOutcome where
  | done
  | accepted
  | refused
  | rejected
  deriving DecidableEq, Repr

inductive CommandReason where
  | none
  | badState
  | busy
  | badArgument
  | notQuiet
  | clockNotSet
  deriving DecidableEq, Repr

/-- The command status (R183). -/
structure CommandStatus where
  code    : Word
  outcome : CommandOutcome
  reason  : CommandReason
  deriving DecidableEq, Repr

inductive SweepKind where
  | none
  | cancelTag
  | withdrawHouse
  deriving DecidableEq, Repr

/-- The sweep state (R188); `last` is the end index. -/
structure Sweep where
  kind : SweepKind
  key  : Word
  next : Word
  last : Word
  deriving DecidableEq, Repr

/-- The fifteen flags and enables are bits at the positions of 11.8. -/
structure Csu where
  sched       : Sched
  commandWord : Word
  arguments   : Tab 3 Word
  status      : CommandStatus
  sweep       : Sweep
  flags       : BitVec 15
  enables     : BitVec 15
  missed      : Word
  deriving DecidableEq, Repr

/-! ### The whole part -/

/-- The machine stops in no fault: what the manual calls a refusal, an error or a rejection is a state of the part
(INVENTORY.md, Faults). The type has no constructor, so no step can answer one. -/
inductive Fault : Type
  deriving DecidableEq, Repr

/-- Why a command has no meaning. -/
inductive Refusal where
  /-- Raised by exec's arm of a command that has no meaning yet; safe, since nothing can be proved of its effect. -/
  | notModelled (mnemonic : String)
  deriving DecidableEq, Repr

/-- The state of the part, and the queue of events not yet taken. -/
structure State where
  bpu       : Bpu
  tables    : Option Tables
  rt        : Rt
  ob        : Tab 64 Entry
  ra        : Ra
  psu       : Psu
  rsu       : Rsu
  ilu       : Ilu
  cbu       : Cbu
  iml       : Iml
  csu       : Csu
  pending   : List Instr
  deriving DecidableEq, Repr

/-! ### Updates of one block -/

def State.setBpu (s : State) (x : Bpu) : State := { s with bpu := x }
def State.setTables (s : State) (x : Option Tables) : State := { s with tables := x }
def State.setRt (s : State) (x : Rt) : State := { s with rt := x }
def State.setOb (s : State) (x : Tab 64 Entry) : State := { s with ob := x }
def State.setRa (s : State) (x : Ra) : State := { s with ra := x }
def State.setPsu (s : State) (x : Psu) : State := { s with psu := x }
def State.setRsu (s : State) (x : Rsu) : State := { s with rsu := x }
def State.setIlu (s : State) (x : Ilu) : State := { s with ilu := x }
def State.setCbu (s : State) (x : Cbu) : State := { s with cbu := x }
def State.setIml (s : State) (x : Iml) : State := { s with iml := x }
def State.setCsu (s : State) (x : Csu) : State := { s with csu := x }
def State.setPending (s : State) (x : List Instr) : State := { s with pending := x }

/-! ### The state after RESETN -/

/-- R163; IMGSEL's value before the release of RESETN is a DESIGN CHOICE (log 2). -/
def Bpu.reset : Bpu :=
  { resetn := true, imgsel := 0, timeout := Config.bareTimeout,
    capture := { kind := .none, addr := 0, init := .host, cause := .none }, lastGrant := .loader, memPort := none,
    upstream := none, ending := .idle, indexStall := false }

/-- R3. -/
def Rt.reset : Rt := { submit := 0, reclaim := 0, release := 0, take := 0, list := [] }

/-- R45, R67. -/
def Psu.reset : Psu := { pumps := Tab.all PumpRec.reset, groups := Tab.all .quiet }

/-- R112. -/
def Rsu.reset : Rsu :=
  { houses := Tab.all HouseRec.reset, levels := Tab.all none, runningBits := Tab.all false, faultBits := Tab.all false,
    duplicates := 0, incompletes := 0 }

/-- R115, R122. -/
def Ilu.reset : Ilu := { store := Tab.all .free, nextSeq := 0, owed := Tab.all none }

/-- The table at the head of chapter 7. -/
def Cbu.reset : Cbu := { clockSet := false, now := 0, divider := 0, band := 0, tally := 0, capReached := false }

/-- R181, R183, R188, R192, R193, R194; the sweep's key and indexes are a DESIGN CHOICE (log 2). -/
def Csu.reset : Csu :=
  { sched := .loading, commandWord := 0, arguments := Tab.all 0, status := { code := 0, outcome := .done, reason := .none },
    sweep := { kind := .none, key := 0, next := 0, last := 0 }, flags := 0, enables := BitVec.allOnes 15, missed := 0 }

/-- The part with RESETN asserted (R159, log 1): every block in its RESETN condition, the queue empty. -/
def State.reset : State :=
  { bpu := Bpu.reset, tables := none, rt := Rt.reset, ob := Tab.all Entry.reset, ra := { requests := 0 },
    psu := Psu.reset, rsu := Rsu.reset, ilu := Ilu.reset, cbu := Cbu.reset, iml := Iml.idleWith .none, csu := Csu.reset,
    pending := [] }

end Sys2Proof.Machine
end

