-- ==== Sys2Proof/Machine/Flags.lean ====
section
/-! DEFINITION. The fifteen event flags, their enables and ALERT (R192, R193), and the fault capture record that the
three fault flags protect (R157). -/

namespace Sys2Proof.Machine

/-- The event flags (10.5). -/
inductive EventFlag where
  | imageRejected
  | reloadDone
  | orderRefused
  | orderExpired
  | lateCancel
  | trip
  | noConfirm
  | unexpectedState
  | houseStale
  | energyCap
  | sweepDone
  | protectViolation
  | indexFault
  | busTimeout
  | clockSet
  deriving DecidableEq, Repr

/-- Positions in status block words 6 and 7 (11.8). -/
def flagPosition : EventFlag → Nat
  | .imageRejected => 0
  | .reloadDone => 1
  | .orderRefused => 2
  | .orderExpired => 3
  | .lateCancel => 4
  | .trip => 5
  | .noConfirm => 6
  | .unexpectedState => 7
  | .houseStale => 8
  | .energyCap => 9
  | .sweepDone => 10
  | .protectViolation => 11
  | .indexFault => 12
  | .busTimeout => 13
  | .clockSet => 14

/-- The flag's bit alone. -/
def flagMask (f : EventFlag) : BitVec 15 := BitVec.ofNat 15 (2 ^ flagPosition f)

/-- The flag is set. -/
def flagSet (s : State) (f : EventFlag) : Bool := s.csu.flags.getLsbD (flagPosition f)

/-- Raising a flag sets it; a flag already set stays set (R192). -/
def raiseFlag (f : EventFlag) (s : State) : State :=
  s.setCsu { s.csu with flags := s.csu.flags ||| flagMask f }

/-- Raise `f` when `b` holds. -/
def raiseFlagIf (b : Bool) (f : EventFlag) (s : State) : State := if b then raiseFlag f s else s

/-- A flag clear write: each flag whose bit is one is cleared; bit 15 belongs to no flag (R192, R197). -/
def clearFlags (value : Word) (s : State) : State :=
  s.setCsu { s.csu with flags := s.csu.flags &&& ~~~(value.truncate 15) }

/-- An enable write sets every enable from its bit; bit 15 is disregarded (R193, R197). -/
def writeEnables (value : Word) (s : State) : State :=
  s.setCsu { s.csu with enables := value.truncate 15 }

/-- ALERT: a flag is set with its enable at 1, and RESETN is not asserted (R193). -/
def alert (s : State) : Bool := !s.bpu.resetn && (s.csu.flags &&& s.csu.enables) != 0

/-- None of the three fault flags is set (R157). -/
def faultFlagsClear (s : State) : Bool :=
  !flagSet s .protectViolation && !flagSet s .indexFault && !flagSet s .busTimeout

/-- The flag of a fault kind. -/
def faultFlag : FaultKind → Option EventFlag
  | .none => none
  | .protectViolation => some .protectViolation
  | .indexFault => some .indexFault
  | .busTimeout => some .busTimeout

/-- A master cycle that raises a fault: the three flags are judged first, then the record is written if they were all
clear, and the flag is raised (R157). -/
def raiseFault (kind : FaultKind) (c : Cycle) (cause : FaultCause) (s : State) : State :=
  let filled := { kind, addr := c.addr, init := c.init, cause : Capture }
  let s1 := if faultFlagsClear s then s.setBpu { s.bpu with capture := filled } else s
  match faultFlag kind with
  | none => s1
  | some f => raiseFlag f s1

end Sys2Proof.Machine
end

