-- ==== Sys2Proof/Machine/Ops.lean ====
section
/-! DEFINITION. The shared operations: index arithmetic (R2, 00_scope.md 4.2), epoch arithmetic (R140), the tables in
force, reads of the Order Book, the plant image and the internal store, and the request for a release pass (R74). -/

namespace Sys2Proof.Machine

/-! ### Indexes -/

/-- The distance from a to b, (b − a) mod 65,536. -/
def dist (a b : Word) : Nat := (b - a).toNat

/-- x lies in [a, b). -/
def lies (a b x : Word) : Bool := dist a x < dist a b

/-- The slot of index i, i mod N (R1). -/
def slotOf (n : RingSize) (i : Word) : Fin 64 := Fin.ofNat 64 (i.toNat % n.slots)

/-- The index at distance d from a. -/
def indexAfter (a : Word) (d : Nat) : Word := a + BitVec.ofNat 16 d

/-- The distance from `base` to the one index in [base, base + N) whose slot is k (R14, R77). -/
def distToSlot (n : RingSize) (base : Word) (k : Fin 64) : Nat := (k.val + n.slots - base.toNat % n.slots) % n.slots

/-- All slots, in the order of the indexes from reclaim on (R79). -/
def slotsFrom (n : RingSize) (base : Word) : List (Fin 64) :=
  (List.range n.slots).map fun d => slotOf n (indexAfter base d)

/-- A 16-bit count that saturates at 65,535 (00_scope.md 4.5). -/
def satSucc (w : Word) : Word := if w == BitVec.allOnes 16 then w else w + 1

/-! ### Epoch values (R140) -/

/-- A sum of epoch seconds, modulo the length of the clock's cycle. -/
def epochAdd (x d : Nat) : Epoch := (x + d) % Config.epochCycle

/-- The offset of x from now: the value in −2,147,472,000 to 2,147,471,999 congruent to x − now. -/
def epochOffset (x now : Epoch) : Int :=
  let d := (x + (Config.epochCycle - now % Config.epochCycle)) % Config.epochCycle
  if d < Config.epochCycle / 2 then (d : Int) else (d : Int) - (Config.epochCycle : Int)

/-- Now is at or past x: the offset is 0 or below. -/
def reached (x now : Epoch) : Bool := decide (epochOffset x now ≤ 0)

/-- x is below now: the offset is below 0. -/
def isBelow (x now : Epoch) : Bool := decide (epochOffset x now < 0)

/-- A condition timer is passed when it is absent or now is at or past it (R60, R82, R90). -/
def passed (x : Option Epoch) (now : Epoch) : Bool :=
  match x with
  | none => true
  | some e => reached e now

def timeOfDay (now : Epoch) : Nat := now % 86400

def dayCount (now : Epoch) : Nat := now / 86400

/-- The band of a time of day (R133). -/
def bandOf (tod : Nat) : Fin 48 := Fin.ofNat 48 (tod / 1800)

/-- A timer started now for `d` seconds. -/
def startTimer (now : Epoch) (d : Nat) : Timer := { expiry := epochAdd now d, due := false }

/-- What a second boundary finds of a timer: due from the first boundary at or past its expiry (R60, log 12). -/
def judgeTimer (now : Epoch) (t : Timer) : Timer := { t with due := t.due || reached t.expiry now }

/-! ### Requests -/

/-- Ask the Release Arbiter for one pass (R74). -/
def requestPass (s : State) : State := s.setRa { s.ra with requests := s.ra.requests + 1 }

/-! ### Tables in force -/

/-- Pump p is configured: its number is below the pump count of the image in force (R44). -/
def configured (t : Tables) (p : Fin 32) : Bool := p.val < t.pumpCount.val

/-- The house entry of the pump. -/
def houseOfPump (t : Tables) (p : Fin 32) : HouseStatic := t.houses.at (t.pumps.at p).house

/-- The main group of the pump's house (R44). -/
def groupOfPump (t : Tables) (p : Fin 32) : Fin 8 := (houseOfPump t p).group

/-! ### Order Book reads -/

/-- The order of a WAITING entry. -/
def waitingOrder (e : Entry) : Option Order := if e.state = .waiting then e.order else none

/-- The finished states (R22). -/
def finished : EntryState → Bool
  | .dispatched => true
  | .refused => true
  | .cancelled => true
  | .expired => true
  | .free => false
  | .waiting => false
  | .released => false

/-- The number of host orders of the pump in WAITING state (R36). -/
def waitingCount (s : State) (p : Fin 32) : Nat :=
  (List.finRange 64).countP fun k => (waitingOrder (s.ob.at k)).any fun o => o.pump == p

/-- The number of entries in a state (R36). -/
def entriesIn (s : State) (st : EntryState) : Nat := (List.finRange 64).countP fun k => (s.ob.at k).state == st

/-- Replace one entry. -/
def putEntry (k : Fin 64) (e : Entry) (s : State) : State := s.setOb (s.ob.put k e)

/-! ### Plant reads -/

/-- The pump's reported running bit (R106). -/
def reportedRunning (s : State) (p : Fin 32) : Bool := s.rsu.runningBits.at p

/-- The load a pump contributes to its feeder (R65). -/
def contribution (t : Tables) (s : State) (p : Fin 32) : Nat :=
  match (s.psu.pumps.at p).state with
  | .stopped => 0
  | .startSent => (t.pumps.at p).startingUnits
  | .starting => (t.pumps.at p).startingUnits
  | .running => (t.pumps.at p).runningUnits
  | .stopSent => (t.pumps.at p).runningUnits
  | .stopping => (t.pumps.at p).runningUnits
  | .unknown => (t.pumps.at p).runningUnits
  | .lockout => if reportedRunning s p then (t.pumps.at p).runningUnits else 0

/-- A feeder's committed load: the contributions of the configured pumps assigned to it (R65). -/
def committedLoad (t : Tables) (s : State) (f : Fin 4) : Nat :=
  ((Tab.numbers 32 fun p => configured t p && (t.pumps.at p).feeder == f).map (contribution t s)).sum

/-- The group record of the pump's group. -/
def groupRec (t : Tables) (s : State) (p : Fin 32) : GroupRec := s.psu.groups.at (groupOfPump t p)

def groupQuiet (t : Tables) (s : State) (p : Fin 32) : Bool := groupRec t s p == .quiet

/-! ### Internal store reads -/

/-- The order of an entry in use (R115). -/
def storeOrder : StoreEntry → Option InternalOrder
  | .free => none
  | .waiting o => some o
  | .released o _ => some o

/-- The pump holds a WAITING or RELEASED internal entry. -/
def holdsEntry (s : State) (p : Fin 32) : Bool :=
  (List.finRange 8).any fun e => (storeOrder (s.ilu.store.at e)).any fun o => o.pump == p

/-- The lowest-numbered FREE entry of the store (R115). -/
def freeEntry (s : State) : Option (Fin 8) := (List.finRange 8).find? fun e => s.ilu.store.at e == .free

/-- The number of entries in use (R131). -/
def storeUse (s : State) : Nat := (List.finRange 8).countP fun e => s.ilu.store.at e != .free

/-- The pump's stop-owed flag is set (R122). -/
def stopOwed (s : State) (p : Fin 32) : Bool := (s.ilu.owed.at p).isSome

end Sys2Proof.Machine
end

