-- ==== Sys2Proof/Machine/Pumps.lean ====
section
/-! DEFINITION. The Pump State Unit: the pump state machine, its timers and the main groups (chapter 3). -/

namespace Sys2Proof.Machine

/-- The states a pump's move into clears its stop-owed flag (R122). -/
def stoppingState : PumpState → Bool
  | .stopped => true
  | .stopSent => true
  | .stopping => true
  | .unknown => false
  | .startSent => false
  | .starting => false
  | .running => false
  | .lockout => false

/-- Clear the pump's stop-owed flag. -/
def clearOwed (p : Fin 32) (s : State) : State := s.setIlu { s.ilu with owed := s.ilu.owed.put p none }

/-- The one way the PSU writes a pump record: a move to STOPPED, STOP_SENT or STOPPING clears the pump's stop-owed
flag (R122). -/
def putPump (p : Fin 32) (r : PumpRec) (s : State) : State :=
  let s1 := s.setPsu { s.psu with pumps := s.psu.pumps.put p r }
  if r.state ≠ (s.psu.pumps.at p).state ∧ stoppingState r.state = true then clearOwed p s1 else s1

/-! ### Releases -/

/-- The pump effect of the release of a START (R48). -/
def startReleased (run : Nat) (r : PumpRec) : PumpRec :=
  if r.state = .stopped then
    { r with state := .startSent, allowance := r.allowance - 1, orderedRun := some run }
  else r

/-- The pump effect of the release of a STOP (R49). -/
def stopReleased (r : PumpRec) : PumpRec :=
  match r.state with
  | .running => { r with state := .stopSent, runEnd := none, started := false }
  | .starting => { r with state := .stopSent, confirm := none, orderedRun := none }
  | .unknown => r
  | .stopped => r
  | .startSent => r
  | .stopSent => r
  | .stopping => r
  | .lockout => r

/-- The pump effect of a release (R94, step 3). -/
def pumpReleased (p : Fin 32) (action : Action) (run : Nat) (s : State) : State :=
  match action with
  | .start => putPump p (startReleased run (s.psu.pumps.at p)) s
  | .stop => putPump p (stopReleased (s.psu.pumps.at p)) s

/-- The group effect of a release (R68): a QUIET group is armed with the pump's house and the position. -/
def groupReleased (t : Tables) (p : Fin 32) (position : Word) (s : State) : State :=
  match groupRec t s p with
  | .quiet =>
    s.setPsu { s.psu with groups := s.psu.groups.put (groupOfPump t p) (.armed (t.pumps.at p).house position) }
  | .armed _ _ => s
  | .guard _ _ _ => s

/-! ### Dispatch notices -/

/-- The pump effect of the dispatch of a START (R50). -/
def startDispatched (now timeout : Nat) (r : PumpRec) : PumpRec :=
  if r.state = .startSent then { r with state := .starting, confirm := some (startTimer now timeout) } else r

/-- The pump effect of the dispatch of a STOP (R51). -/
def stopDispatched (now timeout : Nat) (r : PumpRec) : PumpRec :=
  if r.state = .stopSent then { r with state := .stopping, confirm := some (startTimer now timeout) } else r

def pumpDispatched (t : Tables) (p : Fin 32) (action : Action) (s : State) : State :=
  match action with
  | .start => putPump p (startDispatched s.cbu.now (t.pumps.at p).confirmTimeout (s.psu.pumps.at p)) s
  | .stop => putPump p (stopDispatched s.cbu.now (t.pumps.at p).confirmTimeout (s.psu.pumps.at p)) s

/-- The group effect of a dispatch notice (R70). -/
def groupDispatched (t : Tables) (p : Fin 32) (position : Word) (s : State) : State :=
  match groupRec t s p with
  | .armed h at0 =>
    if position = at0 then
      let rec1 := GroupRec.guard h at0 (startTimer s.cbu.now (t.houses.at h).surgeGuard)
      s.setPsu { s.psu with groups := s.psu.groups.put (groupOfPump t p) rec1 }
    else s
  | .quiet => s
  | .guard _ _ _ => s

/-! ### Report commits -/

/-- Entering LOCKOUT on a reported fault (R54). -/
def faultLocked (r : PumpRec) : PumpRec :=
  { r with state := .lockout, lock := .fault, confirm := none, runEnd := none, orderedRun := none, started := false }

/-- The run-end of a confirmed start (R55, R62). -/
def runEndOf (now : Epoch) (ordered : Option Nat) : Option Timer :=
  match ordered with
  | some n => if 0 < n then some (startTimer now n) else none
  | none => none

/-- A commit of its own house reaching a pump (R53 to R57). -/
def pumpCommitted (st : PumpStatic) (now : Epoch) (running fault : Bool) (r : PumpRec) : PumpRec :=
  if fault then
    match r.state with
    | .lockout => r
    | .unknown => faultLocked r
    | .stopped => faultLocked r
    | .startSent => faultLocked r
    | .starting => faultLocked r
    | .running => faultLocked r
    | .stopSent => faultLocked r
    | .stopping => faultLocked r
  else
    match r.state with
    | .unknown =>
      if running then { r with state := .running, minRun := some now }
      else { r with state := .stopped, rest := some now }
    | .starting =>
      if running then
        { r with state := .running, confirm := none, minRun := some (epochAdd now st.minRun), started := true,
                 runEnd := runEndOf now r.orderedRun, orderedRun := none }
      else r
    | .stopping =>
      if running then r
      else { r with state := .stopped, confirm := none, rest := some (epochAdd now st.minRest) }
    | .running =>
      if running then r
      else { r with state := .stopped, rest := some (epochAdd now st.minRest), runEnd := none, orderedRun := none,
                    started := false }
    | .stopped =>
      if running then { r with state := .running, minRun := some (epochAdd now st.minRun) } else r
    | .startSent => r
    | .stopSent => r
    | .lockout => r

/-- An unexpected stop (R56) or a local start (R57). -/
def unexpected (running fault : Bool) (r : PumpRec) : Bool :=
  !fault && ((r.state == .running && !running) || (r.state == .stopped && running))

/-- The PSU's handling of a commit offered for a pump of the reporting house (R52). -/
def commitPump (t : Tables) (p : Fin 32) (s : State) : State :=
  let r := s.psu.pumps.at p
  let running := s.rsu.runningBits.at p
  let fault := s.rsu.faultBits.at p
  raiseFlagIf (unexpected running fault r) .unexpectedState
    (putPump p (pumpCommitted (t.pumps.at p) s.cbu.now running fault r) s)

/-! ### Confirm expiry, run-end, CLEAR_LOCKOUT -/

/-- A confirm expiry taken (R58). -/
def confirmExpired (r : PumpRec) : PumpRec :=
  match r.state with
  | .starting =>
    { r with state := .lockout, lock := .noStartConfirm, confirm := none, orderedRun := none, runEnd := none }
  | .stopping =>
    { r with state := .lockout, lock := .noStopConfirm, confirm := none, orderedRun := none, runEnd := none }
  | .unknown => r
  | .stopped => r
  | .startSent => r
  | .running => r
  | .stopSent => r
  | .lockout => r

/-- The pump is STARTING or STOPPING and a second boundary has found its confirm expiry reached (R58). -/
def confirmDue (r : PumpRec) : Bool :=
  (r.state == .starting || r.state == .stopping) && r.confirm.any fun x => x.due

/-- The pump is RUNNING and a second boundary has found its run-end reached (R62). -/
def runEndDue (r : PumpRec) : Bool := r.state == .running && r.runEnd.any fun x => x.due

/-- The end of a lockout by the reported running bit (R59). -/
def lockoutCleared (st : PumpStatic) (now : Epoch) (running : Bool) (r : PumpRec) : PumpRec :=
  if running then
    { r with state := .running, lock := .none, minRun := some (epochAdd now st.minRun) }
  else { r with state := .stopped, lock := .none, rest := some now }

/-! ### Second boundary and allowances -/

/-- The PSU judges its timers at a second boundary (R60, R135). -/
def judgePumpTimers (now : Epoch) (r : PumpRec) : PumpRec :=
  { r with confirm := r.confirm.map (judgeTimer now), runEnd := r.runEnd.map (judgeTimer now) }

def judgeGroupTimer (now : Epoch) : GroupRec → GroupRec
  | .quiet => .quiet
  | .armed h at0 => .armed h at0
  | .guard h at0 x => .guard h at0 (judgeTimer now x)

/-- The second boundary reaches the PSU (R135). -/
def psuBoundary (s : State) : State :=
  s.setPsu { pumps := Tab.ofFn fun p => judgePumpTimers s.cbu.now (s.psu.pumps.at p),
             groups := Tab.ofFn fun g => judgeGroupTimer s.cbu.now (s.psu.groups.at g) }

/-- Every configured pump's allowance becomes its starts-per-hour value (R64, R138). -/
def reloadAllowances (t : Tables) (s : State) : State :=
  let reloaded (p : Fin 32) : PumpRec :=
    if configured t p then { s.psu.pumps.at p with allowance := (t.pumps.at p).startsPerHour } else s.psu.pumps.at p
  s.setPsu { s.psu with pumps := Tab.ofFn reloaded }

end Sys2Proof.Machine
end

