-- ==== Sys2Proof/Machine/Interlocks.lean ====
section
/-! DEFINITION. The Interlock Unit: trip conditions, evaluations, timed stops, stop-owed flags and the internal store
(chapter 6). -/

namespace Sys2Proof.Machine

/-- LOW_SUCTION of R117. -/
def lowSuction (t : Tables) (s : State) (p : Fin 32) : Bool :=
  let h := houseOfPump t p
  let res := t.reservoirs.at h.suction
  let st := (s.psu.pumps.at p).state
  (st == .startSent || st == .starting || st == .running) && !res.fixed
    && (s.rsu.levels.at h.suction).any fun l => decide (l < res.trip)

/-- HIGH_DELIVERY of R117. -/
def highDelivery (t : Tables) (s : State) (p : Fin 32) : Bool :=
  let h := houseOfPump t p
  let res := t.reservoirs.at h.delivery
  (s.psu.pumps.at p).state == .running && !res.fixed
    && (s.rsu.levels.at h.delivery).any fun l => decide (res.high ≤ l)

/-- FAULT of R117. -/
def faultRunning (s : State) (p : Fin 32) : Bool := s.rsu.faultBits.at p && s.rsu.runningBits.at p

/-- The first condition of R117's table that holds. -/
def tripCause (t : Tables) (s : State) (p : Fin 32) : Option Cause :=
  if lowSuction t s p then some .lowSuction
  else if highDelivery t s p then some .highDelivery
  else if faultRunning s p then some .fault
  else none

/-- The kind that carries a cause (R115). -/
def kindOf : Cause → StopKind
  | .timed => .timedStop
  | .lowSuction => .tripStop
  | .highDelivery => .tripStop
  | .fault => .tripStop

/-- Raise entry `e` for the pump: WAITING, raised now with the next raise sequence, the pump's stop-owed flag cleared;
a TRIP_STOP raises TRIP (R115, R118, R121, R131). -/
def raiseEntry (e : Fin 8) (p : Fin 32) (cause : Cause) (s : State) : State :=
  let o := { pump := p, kind := kindOf cause, cause, raised := s.cbu.now, seq := s.ilu.nextSeq : InternalOrder }
  raiseFlagIf (cause != .timed) .trip
    (s.setIlu { store := s.ilu.store.put e (.waiting o), nextSeq := s.ilu.nextSeq + 1, owed := s.ilu.owed.put p none })

/-- Set the stop-owed flag; one already set keeps its cause (R118, R121). -/
def oweStop (p : Fin 32) (cause : Cause) (s : State) : State :=
  match s.ilu.owed.at p with
  | some _ => s
  | none => s.setIlu { s.ilu with owed := s.ilu.owed.put p (some cause) }

/-- Steps 3 and 4 of R118: a stop for a START_SENT pump, or with no FREE entry, is owed; otherwise it is raised. -/
def placeStop (p : Fin 32) (cause : Cause) (s : State) : State :=
  match freeEntry s with
  | none => oweStop p cause s
  | some e => if (s.psu.pumps.at p).state = .startSent then oweStop p cause s else raiseEntry e p cause s

/-- Step 1 of R118: a stop for the pump is already outstanding. -/
def stopOutstanding (s : State) (p : Fin 32) : Bool :=
  let st := (s.psu.pumps.at p).state
  holdsEntry s p || st == .stopSent || st == .stopping

/-- An evaluation of a pump (R118). -/
def evaluatePump (t : Tables) (p : Fin 32) (s : State) : State :=
  if stopOutstanding s p then s
  else
    match tripCause t s p with
    | none => s
    | some c => placeStop p c s

/-- A pump handed over at its run-end (R121). -/
def timedStop (p : Fin 32) (s : State) : State :=
  if stopOutstanding s p then s else placeStop p .timed s

/-- One flag taken in with entry `e` FREE (R123). -/
def takeInFlag (t : Tables) (e : Fin 8) (p : Fin 32) (cause : Cause) (s : State) : State :=
  match cause with
  | .timed => raiseEntry e p .timed s
  | .lowSuction =>
    match tripCause t s p with
    | some c => raiseEntry e p c s
    | none => clearOwed p s
  | .highDelivery =>
    match tripCause t s p with
    | some c => raiseEntry e p c s
    | none => clearOwed p s
  | .fault =>
    match tripCause t s p with
    | some c => raiseEntry e p c s
    | none => clearOwed p s

/-- The lowest-numbered pump whose flag is set and that is not START_SENT (R123). -/
def selectOwed (s : State) : Option (Fin 32) :=
  (List.finRange 32).find? fun p => stopOwed s p && (s.psu.pumps.at p).state != .startSent

/-- The selection repeated while an entry is FREE and a selectable flag is set (R123). Each round clears one flag, so
32 rounds are enough (log 29). -/
def takeInRounds (t : Tables) : Nat → State → State
  | 0, s => s
  | n + 1, s =>
    match freeEntry s, selectOwed s with
    | some e, some p =>
      match s.ilu.owed.at p with
      | some c => takeInRounds t n (takeInFlag t e p c s)
      | none => s
    | _, _ => s

/-- The take-in at the freeing of an entry; it requests one pass if it raised or cleared a flag (R123). -/
def takeIn (t : Tables) (s : State) : State :=
  if (freeEntry s).isSome && (selectOwed s).isSome then requestPass (takeInRounds t 32 s) else s

/-- The take-in of one pump's flag at the dispatch of its START (R124). -/
def takeInDispatched (t : Tables) (p : Fin 32) (s : State) : State :=
  match s.ilu.owed.at p, freeEntry s with
  | some c, some e => requestPass (takeInFlag t e p c s)
  | _, _ => s

/-- Free an entry, discarding its fields, and take in (R126, R127). -/
def freeStoreEntry (t : Tables) (e : Fin 8) (s : State) : State :=
  takeIn t (s.setIlu { s.ilu with store := s.ilu.store.put e .free })

/-- What reaches the ILU after the PSU's handling of a dispatch notice: for a START the take-in of R124, and for a
pump in LOCKOUT the evaluation of R120. -/
def dispatchHandedOver (t : Tables) (p : Fin 32) (action : Action) (s : State) : State :=
  let s1 :=
    match action with
    | .start => takeInDispatched t p s
    | .stop => s
  if (s1.psu.pumps.at p).state = .lockout then evaluatePump t p s1 else s1

end Sys2Proof.Machine
end

