-- ==== Sys2Proof/Machine/Operands.lean ====
section
/-! DEFINITION. Every word and bit layout of chapter 11: the fields read from words masters write, and the words the
part answers. A field of `n` bits from bit `lo` is an unsigned number (chapter 11). -/

namespace Sys2Proof.Machine

/-- The field of `n` bits whose lowest bit is `lo`. -/
def field (w : Word) (lo n : Nat) : Nat := (w.toNat / 2 ^ lo) % 2 ^ n

/-- Bit `i` as a flag. -/
def bitOf (w : Word) (i : Nat) : Bool := w.getLsbD i

/-! ### BCD time of day (11.1, R30) -/

/-- Two BCD digits as a number, valid when each is 0 to 9. -/
def bcdPair (tens units : Nat) : Option Nat := if tens ≤ 9 ∧ units ≤ 9 then some (tens * 10 + units) else none

/-- The time of day of an hh:mm field in seconds, absent when the field is invalid (R30). -/
def timeField (w : Word) : Option Nat :=
  match bcdPair (field w 12 4) (field w 8 4), bcdPair (field w 4 4) (field w 0 4) with
  | some h, some m => if h ≤ 23 ∧ m ≤ 59 then some (h * 3600 + m * 60) else none
  | _, _ => none

/-- The seconds field, bits 7:4 and 3:0, absent when invalid (R141). -/
def secondsField (w : Word) : Option Nat :=
  match bcdPair (field w 4 4) (field w 0 4) with
  | some n => if n ≤ 59 then some n else none
  | none => none

/-- A number 0 to 99 as two BCD digits. -/
def bcdOf (n : Nat) : Nat := n / 10 * 16 + n % 10

/-- An epoch value presented as the time of day hh:mm, seconds dropped (R13). -/
def presentTime (x : Epoch) : Word :=
  BitVec.ofNat 16 (bcdOf (timeOfDay x / 3600) * 256 + bcdOf (timeOfDay x / 60 % 60))

/-! ### Slot words (11.2) -/

def formField (w0 : Word) : Nat := field w0 12 4

def formOf (w0 : Word) : Option Form :=
  match formField w0 with
  | 1 => some .short
  | 2 => some .long
  | _ => none

def actionOf (w0 : Word) : Option Action :=
  match field w0 8 4 with
  | 1 => some .start
  | 2 => some .stop
  | _ => none

def pumpField (w0 : Word) : Nat := field w0 0 8

def priorityField (w1 : Word) : Nat := field w1 8 3

def offsetField (w1 : Word) : Nat := field w1 0 8

def dayFlagField (w1 : Word) : Nat := field w1 0 1

/-! ### Codes (11.8) -/

def reasonCode : Reason → Nat
  | .none => 0
  | .pending => 1
  | .held => 2
  | .queue => 3
  | .notYet => 4
  | .pumpBusy => 5
  | .lockout => 6
  | .stale => 7
  | .rest => 8
  | .allowance => 9
  | .localControl => 10
  | .guard => 11
  | .interlock => 12
  | .load => 13
  | .level => 14
  | .floor => 15
  | .cap => 16
  | .room => 17
  | .minRun => 18
  | .clockNotSet => 32
  | .incomplete => 33
  | .badForm => 34
  | .badAction => 35
  | .badPump => 36
  | .badTime => 37
  | .badField => 38
  | .tooLate => 39
  | .queueFull => 40
  | .alreadyRunning => 48
  | .notRunning => 49
  | .lockedOut => 50
  | .hostCancel => 56
  | .tagSweep => 57
  | .houseWithdrawn => 58

def entryStateCode : EntryState → Nat
  | .free => 0
  | .waiting => 1
  | .released => 2
  | .dispatched => 3
  | .refused => 4
  | .cancelled => 5
  | .expired => 6

def storeStateCode : StoreEntry → Nat
  | .free => 0
  | .waiting _ => 1
  | .released _ _ => 2

def causeCode : Cause → Nat
  | .lowSuction => 1
  | .highDelivery => 2
  | .fault => 3
  | .timed => 4

def pumpStateCode : PumpState → Nat
  | .unknown => 0
  | .stopped => 1
  | .startSent => 2
  | .starting => 3
  | .running => 4
  | .stopSent => 5
  | .stopping => 6
  | .lockout => 7

def lockReasonCode : LockReason → Nat
  | .none => 0
  | .fault => 1
  | .noStartConfirm => 2
  | .noStopConfirm => 3

def groupCode : GroupRec → Nat
  | .quiet => 0
  | .armed _ _ => 1
  | .guard _ _ _ => 2

def freshnessCode : Freshness → Nat
  | .never => 0
  | .fresh _ => 1
  | .stale => 2

def schedCode : Sched → Nat
  | .loading => 0
  | .unloaded => 1
  | .hold => 2
  | .run => 3
  | .reloading => 4

def imageReasonCode : ImageReason → Nat
  | .none => 0
  | .busTimeout => 1
  | .format => 2
  | .length => 3
  | .checksum => 4
  | .range => 5
  | .overlap => 6
  | .topology => 7
  | .plantMismatch => 8
  | .notQuiet => 9

def sweepKindCode : SweepKind → Nat
  | .none => 0
  | .cancelTag => 1
  | .withdrawHouse => 2

def outcomeCode : CommandOutcome → Nat
  | .done => 0
  | .accepted => 1
  | .refused => 2
  | .rejected => 3

def commandReasonCode : CommandReason → Nat
  | .none => 0
  | .badState => 1
  | .busy => 2
  | .badArgument => 3
  | .notQuiet => 4
  | .clockNotSet => 5

def faultKindCode : FaultKind → Nat
  | .none => 0
  | .protectViolation => 1
  | .indexFault => 2
  | .busTimeout => 3

def faultCauseCode : FaultCause → Nat
  | .none => 0
  | .initiator => 1
  | .access => 2
  | .width => 3
  | .state => 4
  | .advance => 5
  | .submitted => 6
  | .badRequest => 7
  | .stray => 8
  | .timeout => 9

def initiatorCode : Initiator → Nat
  | .host => 0
  | .link => 1
  | .panel => 2
  | .other => 3

def flagBit (b : Bool) : Nat := if b then 1 else 0

/-! ### Status, grant and link words (11.3, 11.4) -/

/-- A status word: request NONE, late-cancel flag, state, reason (R40). -/
def statusWord (late : Bool) (st : EntryState) (r : Reason) : Word :=
  BitVec.ofNat 16 (flagBit late * 2048 + entryStateCode st * 256 + reasonCode r)

/-- The status word of an entry as the host reads it (R40). -/
def entryStatusWord (e : Entry) : Word := statusWord e.late e.state e.reason

/-- A grant time as a word; absent reads as 0. -/
def grantWord (g : Option Epoch) : Word :=
  match g with
  | some x => presentTime x
  | none => 0

/-- Words 0 to 5 of the link image of an internal order (R128, 11.4). -/
def linkImage (o : InternalOrder) (e : Fin 8) (w : Nat) : Word :=
  match w with
  | 0 => BitVec.ofNat 16 (3 * 4096 + 2 * 256 + o.pump.val)
  | 1 => BitVec.ofNat 16 (7 * 256 + causeCode o.cause)
  | 5 => BitVec.ofNat 16 e.val
  | _ => 0

/-! ### Status block (11.6) -/

/-- Fields of `n` bits laid side by side from bit 0. -/
def packFields (n : Nat) : List Nat → Nat
  | [] => 0
  | x :: xs => x + 2 ^ n * packFields n xs

/-- The word of pump p; a pump that is not configured shows UNKNOWN and zeros (R72). -/
def pumpWord (s : State) (p : Fin 32) : Word :=
  match s.tables with
  | none => 0
  | some t =>
    if configured t p then
      let r := s.psu.pumps.at p
      BitVec.ofNat 16
        (pumpStateCode r.state + lockReasonCode r.lock * 8 + waitingCount s p % 4 * 32 + r.allowance % 16 * 128
          + flagBit (s.rsu.runningBits.at p) * 2048 + flagBit (s.rsu.faultBits.at p) * 4096
          + flagBit (stopOwed s p) * 8192 + flagBit r.started * 16384)
    else 0

/-- The committed load of feeder f, 0 for a feeder that is not configured (R66). -/
def feederWord (s : State) (f : Fin 4) : Word :=
  match s.tables with
  | none => 0
  | some t => if f.val < t.feederCount.val then BitVec.ofNat 16 (committedLoad t s f) else 0

/-- The command code field shows the command word's value up to 255, and 255 above (R196). -/
def shownCode (code : Word) : Nat := if code.toNat ≤ 255 then code.toNat else 255

/-- Word w of the status block, built whole from the owners' state (R195, R196, 11.6). -/
def statusBlockWord (s : State) (w : Nat) : Word :=
  match w with
  | 0 => BitVec.ofNat 16
      (schedCode s.csu.sched + imageReasonCode s.iml.reason * 16 + sweepKindCode s.csu.sweep.kind * 256)
  | 1 => s.csu.commandWord
  | 2 => s.csu.arguments.at 0
  | 3 => s.csu.arguments.at 1
  | 4 => s.csu.arguments.at 2
  | 5 => BitVec.ofNat 16
      (shownCode s.csu.status.code + outcomeCode s.csu.status.outcome * 256
        + commandReasonCode s.csu.status.reason * 4096)
  | 6 => s.csu.flags.setWidth 16
  | 7 => s.csu.enables.setWidth 16
  | 8 => presentTime s.cbu.now
  | 9 => BitVec.ofNat 16
      (bcdOf (timeOfDay s.cbu.now % 60) + s.cbu.band.val * 256 + flagBit s.cbu.capReached * 16384
        + flagBit s.cbu.clockSet * 32768)
  | 10 => BitVec.ofNat 16 (dayCount s.cbu.now)
  | 11 => BitVec.ofNat 16 s.cbu.tally
  | 12 => BitVec.ofNat 16 (s.cbu.tally / 65536 % 256)
  | 13 => s.rt.submit
  | 14 => s.rt.reclaim
  | 15 => s.rt.release
  | 16 => s.rt.take
  | 17 => BitVec.ofNat 16 (entriesIn s .waiting + entriesIn s .released * 256)
  | 18 => BitVec.ofNat 16 (packFields 2 ((List.finRange 8).map fun e => storeStateCode (s.ilu.store.at e)))
  | 19 => BitVec.ofNat 16
      (packFields 1 ((List.finRange 12).map fun h => flagBit (s.rsu.houses.at h).localControl) + storeUse s * 4096)
  | 20 => BitVec.ofNat 16 (packFields 2 ((List.finRange 8).map fun g => groupCode (s.psu.groups.at g)))
  | 21 => BitVec.ofNat 16
      (faultKindCode s.bpu.capture.kind + initiatorCode s.bpu.capture.init * 16
        + faultCauseCode s.bpu.capture.cause * 256 + s.bpu.capture.addr.toNat / 65536 * 4096)
  | 22 => BitVec.ofNat 16 s.bpu.capture.addr.toNat
  | 23 => s.rsu.duplicates
  | 24 => s.rsu.incompletes
  | 25 => s.csu.missed
  | 26 => BitVec.ofNat 16
      (packFields 2 ((List.finRange 8).map fun h => freshnessCode (s.rsu.houses.at (Fin.ofNat 12 h.val)).freshness))
  | 27 => BitVec.ofNat 16
      (packFields 2 ((List.finRange 4).map fun h => freshnessCode (s.rsu.houses.at (Fin.ofNat 12 (8 + h.val))).freshness))
  | 28 => feederWord s 0
  | 29 => feederWord s 1
  | 30 => feederWord s 2
  | 31 => feederWord s 3
  | p => pumpWord s (Fin.ofNat 32 (p - 32))

/-- The words of the status block the host may write (R155, 11.6). -/
def writableStatusWord (w : Nat) : Bool :=
  w == 1 || w == 2 || w == 3 || w == 4 || w == 6 || w == 7 || w == 23 || w == 24 || w == 25

end Sys2Proof.Machine
end

