-- ==== Sys2Proof/Machine/OrderBook.lean ====
section
/-! DEFINITION. The Order Book: slot words, admission, cancel requests, and the reclaim advance that frees finished
slots (chapter 2, R11). -/

namespace Sys2Proof.Machine

/-- Record a slot word and its mark (R26). -/
def recordSlotWord (k : Fin 64) (w : Fin 6) (v : Word) (s : State) : State :=
  let e := s.ob.at k
  putEntry k { e with words := e.words.put w (some v) } s

/-- The last recorded value of slot word w. -/
def recorded (e : Entry) (w : Fin 6) : Word := (e.words.at w).getD 0

/-- The words admission requires: 0 to 5 for a recorded form 2, 0 to 3 otherwise (R23). -/
def requiredWords (e : Entry) : List (Fin 6) :=
  if ((e.words.at 0).any fun w0 => formField w0 == 2) then [0, 1, 2, 3, 4, 5] else [0, 1, 2, 3]

def wordsComplete (e : Entry) : Bool := (requiredWords e).all fun w => (e.words.at w).isSome

/-- Earliest and latest of a short-form order (R31). -/
def shortTimes (window now : Nat) (w1 : Word) : Epoch × Epoch :=
  let earliest := epochAdd now (offsetField w1 * 60)
  (earliest, epochAdd earliest window)

/-- Earliest and latest of a long-form order; absent when a time field is invalid (R30, R32). -/
def longTimes (now : Epoch) (w1 w2 w3 : Word) : Option (Epoch × Epoch) :=
  match timeField w2, timeField w3 with
  | some e, some l =>
    let base := (dayCount now + dayFlagField w1) * 86400
    some (epochAdd base e, epochAdd base (if e ≤ l then l else 86400 + l))
  | _, _ => none

def orderTimes (t : Tables) (now : Epoch) (form : Form) (e : Entry) : Option (Epoch × Epoch) :=
  match form with
  | .short => some (shortTimes t.defaultWindow now (recorded e 1))
  | .long => longTimes now (recorded e 1) (recorded e 2) (recorded e 3)

/-- Run minutes: word 2 of the short form, word 4 of the long form (R24, R25). -/
def runMinutes (form : Form) (e : Entry) : Nat :=
  match form with
  | .short => (recorded e 2).toNat
  | .long => (recorded e 4).toNat

/-- Tag: word 3 of the short form, word 5 of the long form. -/
def tagOf (form : Form) (e : Entry) : Word :=
  match form with
  | .short => recorded e 3
  | .long => recorded e 5

/-- Run seconds recorded with the order (R33). -/
def runSeconds (action : Action) (minutes : Nat) : Nat :=
  match action with
  | .start => minutes * 60
  | .stop => 0

/-- The admission checks of R35 in their order: the reason of the first that fails, or the parsed order. -/
def admission (t : Tables) (s : State) (e : Entry) : Except Reason Order :=
  if !s.cbu.clockSet then .error .clockNotSet
  else if !wordsComplete e then .error .incomplete
  else
    match formOf (recorded e 0) with
    | none => .error .badForm
    | some form =>
      match actionOf (recorded e 0) with
      | none => .error .badAction
      | some action =>
        if t.pumpCount.val ≤ pumpField (recorded e 0) then .error .badPump
        else
          match orderTimes t s.cbu.now form e with
          | none => .error .badTime
          | some (earliest, latest) =>
            if action = .start ∧ 1440 < runMinutes form e then .error .badField
            else if isBelow latest s.cbu.now then .error .tooLate
            else if 2 ≤ waitingCount s (Fin.ofNat 32 (pumpField (recorded e 0))) then .error .queueFull
            else
              .ok { form, action, pump := Fin.ofNat 32 (pumpField (recorded e 0)),
                    priority := priorityField (recorded e 1), earliest, latest,
                    run := runSeconds action (runMinutes form e), tag := tagOf form e }

/-- Admission of one submission index (R34). A refused order is not stored as a parsed order (log 20). -/
def admitIndex (t : Tables) (i : Word) (s : State) : State :=
  let k := slotOf t.map.ringSize i
  let e := s.ob.at k
  match admission t s e with
  | .error r => raiseFlag .orderRefused (putEntry k { e with state := .refused, reason := r } s)
  | .ok o =>
    putEntry k { e with state := .waiting, reason := .pending, order := some o, grant := none, mark := false,
                        late := false } s

/-- Admission of `n` submission indexes from `i` on, in index order (R34). -/
def admitFrom (t : Tables) : Nat → Word → State → State
  | 0, _, s => s
  | n + 1, i, s => admitFrom t n (i + 1) (admitIndex t i s)

/-- Reclaim moves over finished entries, freeing each slot, until an unfinished entry or submit (R11). A walk meets at
most 64 finished slots (log 29). -/
def reclaimRounds (t : Tables) : Nat → State → State
  | 0, s => s
  | n + 1, s =>
    let k := slotOf t.map.ringSize s.rt.reclaim
    if s.rt.reclaim ≠ s.rt.submit ∧ finished (s.ob.at k).state = true then
      reclaimRounds t n (putEntry k Entry.reset (s.setRt { s.rt with reclaim := s.rt.reclaim + 1 }))
    else s

def reclaimAdvance (t : Tables) (s : State) : State := reclaimRounds t 64 s

/-- An entry that leaves WAITING loses its sweep mark (R38). -/
def leaveWaiting (st : EntryState) (r : Reason) (e : Entry) : Entry := { e with state := st, reason := r, mark := false }

/-- A cancel request absorbed for slot k (R42). -/
def cancelSlot (t : Tables) (k : Fin 64) (s : State) : State :=
  let e := s.ob.at k
  match e.state with
  | .waiting => requestPass (reclaimAdvance t (putEntry k (leaveWaiting .cancelled .hostCancel e) s))
  | .released => raiseFlag .lateCancel (putEntry k { e with late := true } s)
  | .dispatched => raiseFlag .lateCancel (putEntry k { e with late := true } s)
  | .refused => s
  | .cancelled => s
  | .expired => s
  | .free => s

/-- A submit write of `v` acknowledged (R5). -/
def submitAcknowledged (t : Tables) (v : Word) (s : State) : State :=
  if v = s.rt.submit then s
  else
    requestPass
      (reclaimAdvance t (admitFrom t (dist s.rt.submit v) s.rt.submit (s.setRt { s.rt with submit := v })))

end Sys2Proof.Machine
end

