-- ==== Sys2Proof/Machine/Arbiter.lean ====
section
/-! DEFINITION. The Release Arbiter: the judgements, the rounds and the release of a winner (chapter 4), and the Ring
Tracker's take advance, which dispatches what was released (1.8, R95). -/

namespace Sys2Proof.Machine

/-- What a round finds of a host order: eligible, held with a reason, or refused at evaluation (4.2). -/
inductive Judgement where
  | eligible
  | hold (r : Reason)
  | refuse (r : Reason)
  deriving DecidableEq, Repr

/-! ### Judging host orders -/

/-- The order in slot k is the head of its pump's queue: the oldest WAITING host order of the pump (R79). -/
def isHead (t : Tables) (s : State) (k : Fin 64) (p : Fin 32) : Bool :=
  (slotsFrom t.map.ringSize s.rt.reclaim).find?
    (fun j => (waitingOrder (s.ob.at j)).any fun o => o.pump == p) == some k

/-- The release list has room (R88). -/
def hasRoom (t : Tables) (s : State) : Bool := dist s.rt.take s.rt.release < t.map.ringSize.slots

/-- The suction side of the LEVEL check (R86). -/
def suctionAllows (t : Tables) (s : State) (p : Fin 32) : Bool :=
  let r := (houseOfPump t p).suction
  (t.reservoirs.at r).fixed || (s.rsu.levels.at r).any fun l => decide ((t.reservoirs.at r).lowSuction ≤ l)

/-- The delivery side of the LEVEL check (R86). -/
def deliveryAllows (t : Tables) (s : State) (p : Fin 32) : Bool :=
  let r := (houseOfPump t p).delivery
  (t.reservoirs.at r).fixed || (s.rsu.levels.at r).any fun l => decide (l < (t.reservoirs.at r).high)

/-- The house of the pump is FRESH (R83). -/
def houseFresh (t : Tables) (s : State) (p : Fin 32) : Bool :=
  match (s.rsu.houses.at (t.pumps.at p).house).freshness with
  | .fresh _ => true
  | .never => false
  | .stale => false

/-- The sum of the LOAD check is within the feeder's limit (R85). -/
def loadAllows (t : Tables) (s : State) (p : Fin 32) : Bool :=
  let f := (t.pumps.at p).feeder
  decide (committedLoad t s f + (t.pumps.at p).startingUnits ≤ t.limits.at f)

/-- Checks 6 to 16 of a host START whose pump is STOPPED (R82 to R88). -/
def judgeStoppedStart (t : Tables) (s : State) (o : Order) : Judgement :=
  let r := s.psu.pumps.at o.pump
  if !passed r.rest s.cbu.now then .hold .rest
  else if r.allowance = 0 then .hold .allowance
  else if !houseFresh t s o.pump then .hold .stale
  else if (s.rsu.houses.at (t.pumps.at o.pump).house).localControl then .hold .localControl
  else if !groupQuiet t s o.pump then .hold .guard
  else if holdsEntry s o.pump || stopOwed s o.pump then .hold .interlock
  else if !loadAllows t s o.pump then .hold .load
  else if !(suctionAllows t s o.pump && deliveryAllows t s o.pump) then .hold .level
  else if o.priority < (t.bands.at s.cbu.band).floor then .hold .floor
  else if s.cbu.capReached && decide (o.priority < 6) then .hold .cap
  else if !hasRoom t s then .hold .room
  else .eligible

/-- Checks 4 to 16 of a host START (R81). -/
def judgeStart (t : Tables) (s : State) (o : Order) : Judgement :=
  match (s.psu.pumps.at o.pump).state with
  | .running => .refuse .alreadyRunning
  | .stopped => judgeStoppedStart t s o
  | .startSent => .hold .pumpBusy
  | .starting => .hold .pumpBusy
  | .stopSent => .hold .pumpBusy
  | .stopping => .hold .pumpBusy
  | .lockout => .hold .lockout
  | .unknown => .hold .stale

/-- Checks 4 to 10 of a host STOP (R89, R90, R84, R88). -/
def judgeStop (t : Tables) (s : State) (o : Order) : Judgement :=
  let r := s.psu.pumps.at o.pump
  match r.state with
  | .stopped => .refuse .notRunning
  | .stopSent => .refuse .notRunning
  | .stopping => .refuse .notRunning
  | .lockout => .refuse .lockedOut
  | .unknown => .hold .stale
  | .startSent => .hold .pumpBusy
  | .starting => .hold .pumpBusy
  | .running =>
    if !passed r.minRun s.cbu.now then .hold .minRun
    else if !groupQuiet t s o.pump then .hold .guard
    else if !hasRoom t s then .hold .room
    else .eligible

/-- The judgement of the host order in slot k (R78 to R90). -/
def judgeHost (t : Tables) (s : State) (k : Fin 64) (o : Order) : Judgement :=
  if s.csu.sched ≠ .run then .hold .held
  else if !isHead t s k o.pump then .hold .queue
  else if !reached o.earliest s.cbu.now then .hold .notYet
  else
    match o.action with
    | .start => judgeStart t s o
    | .stop => judgeStop t s o

/-! ### Judging internal entries -/

/-- The order of a WAITING entry that was in the store when the pass began: its raise sequence is below the pass's
first (R76, R93). -/
def candidateOrder (seq0 : Nat) : StoreEntry → Option InternalOrder
  | .waiting o => if o.seq < seq0 then some o else none
  | .free => none
  | .released _ _ => none

/-- The judgement withdraws the entry (R92). -/
def withdrawn (s : State) (p : Fin 32) : Bool :=
  match (s.psu.pumps.at p).state with
  | .stopped => true
  | .stopSent => true
  | .stopping => true
  | .lockout => !reportedRunning s p
  | .unknown => false
  | .startSent => false
  | .starting => false
  | .running => false

/-- The pump stands in a state in which R92 judges the entry under the checks. For a pump in a state R92's table does
not name the entry stays WAITING (log 28). -/
def stoppable (s : State) (p : Fin 32) : Bool :=
  match (s.psu.pumps.at p).state with
  | .running => true
  | .starting => true
  | .lockout => reportedRunning s p
  | .unknown => false
  | .stopped => false
  | .startSent => false
  | .stopSent => false
  | .stopping => false

/-- An internal entry under judgement is eligible (R92). -/
def internalEligible (t : Tables) (s : State) (o : InternalOrder) : Bool :=
  stoppable s o.pump && groupQuiet t s o.pump && hasRoom t s
    && (o.kind == .tripStop || passed (s.psu.pumps.at o.pump).minRun s.cbu.now)

/-- The entry raised as `a` comes before the one raised as `b`: earlier raised time, or equal and earlier raise sequence
(R116, R77, R140). -/
def raisedBefore (now : Epoch) (a b : InternalOrder) : Bool :=
  let x := epochOffset a.raised now
  let y := epochOffset b.raised now
  decide (x < y) || (x == y && decide (a.seq < b.seq))

/-- The entries a round judges for which `found` holds, in the order in which the RA orders WAITING entries (R76,
R116). -/
def judgedEntries (seq0 : Nat) (found : InternalOrder → Bool) (s : State) : List (Fin 8 × InternalOrder) :=
  ((List.finRange 8).filterMap fun e =>
      ((candidateOrder seq0 (s.ilu.store.at e)).filter found).map fun o => (e, o)).insertionSort
    fun x y => raisedBefore s.cbu.now y.2 x.2 = false

/-- The entries the round's judgement withdraws, in the order of judgement (R92). -/
def withdrawals (s : State) (seq0 : Nat) : List (Fin 8) :=
  (judgedEntries seq0 (fun o => withdrawn s o.pump) s).map fun x => x.1

/-- Withdraw the round's entries one after another, each freed at once with its take-in (R93, R126). A take-in changes no
pump, so it changes no later judgement of the round. -/
def withdrawAll (t : Tables) (seq0 : Nat) (s : State) : State :=
  (withdrawals s seq0).foldl (fun s' e => freeStoreEntry t e s') s

/-! ### Releases -/

/-- The Ring Tracker writes the entry at position release with the grant time of now and raises release (R12, R13). -/
def appendRelease (origin : Origin) (s : State) : State :=
  s.setRt { s.rt with list := s.rt.list ++ [{ origin, grant := s.cbu.now }], release := s.rt.release + 1 }

/-- The Order Book marks the order released; a sweep mark lost so counts as missed (R39, R190). -/
def markReleased (k : Fin 64) (s : State) : State :=
  let e := s.ob.at k
  let s1 := putEntry k { leaveWaiting .released .none e with grant := some s.cbu.now } s
  if e.mark then s1.setCsu { s1.csu with missed := satSucc s1.csu.missed } else s1

/-- The release of a host order (R94). -/
def releaseHost (t : Tables) (k : Fin 64) (o : Order) (s : State) : State :=
  groupReleased t o.pump s.rt.release
    (pumpReleased o.pump o.action o.run (markReleased k (appendRelease (.host k) s)))

/-- The Interlock Unit makes the entry RELEASED with the grant time (R125). -/
def markEntryReleased (e : Fin 8) (o : InternalOrder) (s : State) : State :=
  s.setIlu { s.ilu with store := s.ilu.store.put e (.released o s.cbu.now) }

/-- The release of an internal entry (R94, R125). -/
def releaseInternal (t : Tables) (e : Fin 8) (o : InternalOrder) (s : State) : State :=
  groupReleased t o.pump s.rt.release
    (pumpReleased o.pump .stop 0 (markEntryReleased e o (appendRelease (.internal e) s)))

/-! ### The winner (R77) -/

/-- The eligible internal entries of the round, in the order of judgement. -/
def internalCandidates (t : Tables) (seq0 : Nat) (s : State) : List (Fin 8 × InternalOrder) :=
  judgedEntries seq0 (internalEligible t s) s

/-- The eligible entry raised first (R77). -/
def internalWinner (t : Tables) (seq0 : Nat) (s : State) : Option (Fin 8 × InternalOrder) :=
  (internalCandidates t seq0 s).head?

/-- A host order beats the best so far only with a higher priority: candidates come in order of distance from reclaim. -/
def betterHost (best : Option (Fin 64 × Order)) (x : Fin 64 × Order) : Option (Fin 64 × Order) :=
  match best with
  | none => some x
  | some y => if y.2.priority < x.2.priority then some x else some y

/-- The eligible host orders of the round, in order of distance from reclaim. -/
def hostCandidates (t : Tables) (s : State) : List (Fin 64 × Order) :=
  (slotsFrom t.map.ringSize s.rt.reclaim).filterMap fun k =>
    match waitingOrder (s.ob.at k) with
    | some o => if judgeHost t s k o = .eligible then some (k, o) else none
    | none => none

def hostWinner (t : Tables) (s : State) : Option (Fin 64 × Order) := (hostCandidates t s).foldl betterHost none

/-! ### Rounds and the pass -/

/-- What a round leaves of one entry: a held order keeps the first failing check as its reason (R38, R76), a refused
one leaves WAITING with the verdict (R91), an eligible one stands. -/
def judgedEntry (t : Tables) (s : State) (k : Fin 64) : Entry :=
  let e := s.ob.at k
  match waitingOrder e with
  | none => e
  | some o =>
    match judgeHost t s k o with
    | .eligible => e
    | .hold r => { e with reason := r }
    | .refuse r => leaveWaiting .refused r e

/-- The round refuses some order at evaluation (R91). -/
def refusesAny (t : Tables) (s : State) : Bool :=
  (List.finRange 64).any fun k =>
    match waitingOrder (s.ob.at k) with
    | none => false
    | some o =>
      match judgeHost t s k o with
      | .refuse _ => true
      | .eligible => false
      | .hold _ => false

/-- The round's judgements written to the Order Book (R76, R91). -/
def recordJudgements (t : Tables) (s : State) : State :=
  raiseFlagIf (refusesAny t s) .orderRefused (s.setOb (Tab.ofFn fun k => judgedEntry t s k))

/-- A round's outcome: whether it released, refused or withdrew anything, and whether a host order left WAITING. -/
structure RoundResult where
  state      : State
  progressed : Bool
  hostMoved  : Bool

/-- One release round (R76): the internal entries are judged first, then the host orders against the state they left;
then one winner is released. The heads of the pumps' queues are those the round finds (R79, R91, log 17). -/
def releaseRound (t : Tables) (seq0 : Nat) (s : State) : RoundResult :=
  let s1 := withdrawAll t seq0 s
  let s2 := recordJudgements t s1
  let refused := refusesAny t s1
  match internalWinner t seq0 s1 with
  | some (e, o) => { state := releaseInternal t e o s2, progressed := true, hostMoved := refused }
  | none =>
    match hostWinner t s1 with
    | some (k, o) => { state := releaseHost t k o s2, progressed := true, hostMoved := true }
    | none => { state := s2, progressed := refused || !(withdrawals s seq0).isEmpty, hostMoved := refused }

/-- Rounds until one releases, refuses and withdraws nothing (R76). -/
def releaseRounds (t : Tables) (seq0 : Nat) : Nat → State → State × Bool
  | 0, s => (s, false)
  | n + 1, s =>
    let r := releaseRound t seq0 s
    if r.progressed then
      let rest := releaseRounds t seq0 n r.state
      (rest.1, r.hostMoved || rest.2)
    else (r.state, r.hostMoved)

/-- The entry's order is late: its latest start is below now (R75). -/
def lateOrder (now : Epoch) (e : Entry) : Bool := (waitingOrder e).any fun o => isBelow o.latest now

/-- The expiry stage expires some order. -/
def expiresAny (s : State) : Bool := (List.finRange 64).any fun k => lateOrder s.cbu.now (s.ob.at k)

/-- The expiry stage (R75): a late order becomes EXPIRED with the hold reason it held. -/
def expireLate (s : State) : State :=
  let after (k : Fin 64) : Entry :=
    let e := s.ob.at k
    if lateOrder s.cbu.now e then leaveWaiting .expired e.reason e else e
  raiseFlagIf (expiresAny s) .orderExpired (s.setOb (Tab.ofFn after))

/-- A release pass (R73, R75, R76): at most 73 rounds (R76), and the reclaim advance if a host order was expired,
refused or released. -/
def releasePass (t : Tables) (s : State) : State :=
  let s1 := expireLate s
  let r := releaseRounds t s.ilu.nextSeq 73 s1
  if expiresAny s || r.2 then reclaimAdvance t r.1 else r.1

/-! ### The take advance (R19) -/

/-- The pump and group effects of a dispatch notice, and what is handed to the ILU after them (R50, R51, R70, R120,
R124). -/
def dispatchPump (t : Tables) (p : Fin 32) (action : Action) (position : Word) (s : State) : State :=
  dispatchHandedOver t p action (groupDispatched t p position (pumpDispatched t p action s))

/-- The Order Book makes the RELEASED entry DISPATCHED (R39). -/
def entryDispatched (k : Fin 64) (s : State) : State :=
  let e := s.ob.at k
  if e.state = .released then putEntry k { e with state := .dispatched, reason := .none } s else s

/-- One dispatch notice: the origin store first, then the PSU (R19, R39, R127). -/
def dispatchNotice (t : Tables) (position : Word) (origin : Origin) (s : State) : State :=
  match origin with
  | .host k =>
    match (s.ob.at k).order with
    | some o => dispatchPump t o.pump o.action position (entryDispatched k s)
    | none => entryDispatched k s
  | .internal e =>
    match storeOrder (s.ilu.store.at e) with
    | some o => dispatchPump t o.pump .stop position (freeStoreEntry t e s)
    | none => s

/-- The positions taken one after another from the head of the release list (R19). -/
def takePositions (t : Tables) : Nat → Word → State → State
  | 0, _, s => s
  | n + 1, position, s =>
    match s.rt.list with
    | [] => s
    | x :: rest =>
      takePositions t n (position + 1)
        (dispatchNotice t position x.origin (s.setRt { s.rt with list := rest }))

/-- A take write of `v` acknowledged (R8, R19). -/
def takeAcknowledged (t : Tables) (v : Word) (s : State) : State :=
  if v = s.rt.take then s
  else
    requestPass
      (reclaimAdvance t (takePositions t (dist s.rt.take v) s.rt.take (s.setRt { s.rt with take := v })))

end Sys2Proof.Machine
end

