-- ==== Sys2Proof/Machine/Reports.lean ====
section
/-! DEFINITION. The Report Snoop Unit: assembly buffers, the sequence word, commits and freshness (chapter 5). -/

namespace Sys2Proof.Machine

def putHouse (h : Fin 12) (r : HouseRec) (s : State) : State := s.setRsu { s.rsu with houses := s.rsu.houses.put h r }

/-- A report word 0 to 6 acknowledged (R100): word 0 only its seen bit, words 1 to 6 with their value. -/
def bufferWord (w : Fin 7) (v : Word) (b : AssemblyBuffer) : AssemblyBuffer :=
  if w.val = 0 then { b with clockSeen := true }
  else { b with words := b.words.put (Fin.ofNat 6 (w.val - 1)) (some v) }

def reportWord (h : Fin 12) (w : Fin 7) (v : Word) (s : State) : State :=
  let r := s.rsu.houses.at h
  putHouse h { r with buffer := bufferWord w v r.buffer } s

/-- Every seen bit is set (R101). -/
def bufferComplete (b : AssemblyBuffer) : Bool :=
  b.clockSeen && (List.finRange 6).all fun i => (b.words.at i).isSome

/-- The buffer's value of word w, for w in 1 to 6. -/
def bufferValue (b : AssemblyBuffer) (w : Nat) : Word := (b.words.at (Fin.ofNat 6 (w - 1))).getD 0

/-- The level a report gives (R104). -/
def reportedLevel (valid : Bool) (w : Word) : Option Nat :=
  if valid ∧ w.toNat ≤ 9999 then some w.toNat else none

/-- Step 1 of a commit: levels, reported bits and local-control flag (R104, R106, R107). -/
def applyReport (t : Tables) (h : Fin 12) (s : State) : State :=
  let r := s.rsu.houses.at h
  let b := r.buffer
  let house := t.houses.at h
  let suction := reportedLevel (bitOf (bufferValue b 3) 0) (bufferValue b 1)
  let delivery := reportedLevel (bitOf (bufferValue b 3) 1) (bufferValue b 2)
  let mine (p : Fin 32) : Bool := configured t p && (t.pumps.at p).house == h
  let runBit (p : Fin 32) : Bool :=
    if mine p then bitOf (bufferValue b 4) (t.pumps.at p).position.val else s.rsu.runningBits.at p
  let faultBit (p : Fin 32) : Bool :=
    if mine p then bitOf (bufferValue b 5) (t.pumps.at p).position.val else s.rsu.faultBits.at p
  s.setRsu { s.rsu with
    levels := (s.rsu.levels.put house.suction suction).put house.delivery delivery
    runningBits := Tab.ofFn runBit
    faultBits := Tab.ofFn faultBit
    houses := s.rsu.houses.put h { r with localControl := bitOf (bufferValue b 6) 0 } }

/-- Step 2: the house becomes FRESH (R108). -/
def freshen (t : Tables) (h : Fin 12) (s : State) : State :=
  putHouse h { s.rsu.houses.at h with
    freshness := .fresh (startTimer s.cbu.now (t.houses.at h).staleTime) } s

/-- The offer set of a commit of house h (R110). -/
def offered (t : Tables) (h : Fin 12) (p : Fin 32) : Bool :=
  let mine := t.houses.at h
  let his := houseOfPump t p
  configured t p
    && ((t.pumps.at p).house == h || his.suction == mine.suction || his.suction == mine.delivery
        || his.delivery == mine.suction || his.delivery == mine.delivery)

/-- One offer: the PSU for a pump of the reporting house, then the ILU (R52, R110, R118). -/
def offerCommit (t : Tables) (h : Fin 12) (s : State) (p : Fin 32) : State :=
  evaluatePump t p (if (t.pumps.at p).house = h then commitPump t p s else s)

/-- A commit (R103): plant image, freshness, offers in ascending pump number (R119), one pass. -/
def commitReport (t : Tables) (h : Fin 12) (s : State) : State :=
  requestPass ((Tab.numbers 32 (offered t h)).foldl (offerCommit t h) (freshen t h (applyReport t h s)))

/-- The buffer emptied for the next record (R101). -/
def clearBuffer (h : Fin 12) (s : State) : State :=
  putHouse h { s.rsu.houses.at h with buffer := AssemblyBuffer.clear } s

def setSequence (h : Fin 12) (q : Word) (s : State) : State :=
  putHouse h { s.rsu.houses.at h with lastSequence := some q } s

/-- A sequence word of value q acknowledged (R101): incomplete, duplicate or commit; then the buffer is cleared. -/
def sequenceAcknowledged (t : Tables) (h : Fin 12) (q : Word) (s : State) : State :=
  let r := s.rsu.houses.at h
  if !bufferComplete r.buffer then
    clearBuffer h (s.setRsu { s.rsu with incompletes := satSucc s.rsu.incompletes })
  else if r.lastSequence = some q then
    clearBuffer h (s.setRsu { s.rsu with duplicates := satSucc s.rsu.duplicates })
  else clearBuffer h (setSequence h q (commitReport t h s))

/-- The RSU judges its stale expiries at a second boundary (R109, R135). -/
def rsuBoundary (s : State) : State :=
  let after (h : Fin 12) : HouseRec :=
    let r := s.rsu.houses.at h
    match r.freshness with
    | .fresh x => { r with freshness := .fresh (judgeTimer s.cbu.now x) }
    | .never => r
    | .stale => r
  s.setRsu { s.rsu with houses := Tab.ofFn after }

/-- The house is FRESH and a second boundary has found its stale expiry reached (R109). -/
def staleDue (r : HouseRec) : Bool :=
  match r.freshness with
  | .fresh x => x.due
  | .never => false
  | .stale => false

end Sys2Proof.Machine
end

