-- ==== Sys2Proof/Machine/Clock.lean ====
section
/-! DEFINITION. The Clock and Band Unit: the second divider, the boundaries, the energy tally and SET_TIME
(chapter 7). -/

namespace Sys2Proof.Machine

/-- The pump counts in the minute's sum (R136). -/
def spends (s : State) (p : Fin 32) : Bool :=
  match (s.psu.pumps.at p).state with
  | .running => true
  | .stopSent => true
  | .stopping => true
  | .lockout => reportedRunning s p
  | .unknown => false
  | .stopped => false
  | .startSent => false
  | .starting => false

/-- The minute's sum: the running units of every configured pump that counts; 0 while no image is in force (R136,
R144). -/
def minuteSum (s : State) : Nat :=
  match s.tables with
  | none => 0
  | some t => ((Tab.numbers 32 fun p => configured t p && spends s p).map fun p => (t.pumps.at p).runningUnits).sum

/-- The energy cap of the current band, 0 meaning none (R137, R144). -/
def bandCap (s : State) : Nat :=
  match s.tables with
  | none => 0
  | some t => (t.bands.at s.cbu.band).cap

/-- The tally has reached the threshold of cap c (R137, R144). -/
def capHit (c tally : Nat) : Bool := c != 0 && decide (c * 16 ≤ tally)

/-- The minute effects: the addition, then the cap judgement (R136, R137). The tally never exceeds its largest value
(R136, log 19). -/
def minuteEffects (s : State) : State :=
  let tally := min (s.cbu.tally + minuteSum s) Config.tallyMax
  let hit := capHit (bandCap s) tally
  raiseFlagIf (hit && !s.cbu.capReached) .energyCap
    (s.setCbu { s.cbu with tally, capReached := s.cbu.capReached || hit })

/-- The band effects (R139). -/
def bandEffects (s : State) : State :=
  s.setCbu { s.cbu with band := bandOf (timeOfDay s.cbu.now), tally := 0, capReached := false }

/-- Now rises by one and returns to 0 at the end of its cycle, with the day count (R133, R140); the divider stands at 0
after its wrap (R132). -/
def advanceNow (s : State) : State := s.setCbu { s.cbu with now := epochAdd s.cbu.now 1, divider := 0 }

/-- Effects of the CBU's own at a second boundary, in R135's order. -/
def clockEffects (s : State) : State :=
  let s1 := advanceNow s
  let s2 := if timeOfDay s1.cbu.now % 60 = 0 then minuteEffects s1 else s1
  if timeOfDay s1.cbu.now % 1800 = 0 then bandEffects s2 else s2

/-- The hour boundary's allowance reload (R138). -/
def hourEffects (s : State) : State :=
  if timeOfDay s.cbu.now % 3600 = 0 then
    match s.tables with
    | some t => reloadAllowances t s
    | none => s
  else s

/-- A second boundary, whole (R135). -/
def secondBoundary (s : State) : State := requestPass (rsuBoundary (psuBoundary (hourEffects (clockEffects s))))

/-- One rising edge of TREF (R132): counted while the clock is set; the edge that would take the divider to 32,768
returns it to 0 and produces a second boundary. -/
def trefEdge (s : State) : State :=
  if s.cbu.clockSet then
    if s.cbu.divider + 1 < Config.trefPerSecond then s.setCbu { s.cbu with divider := s.cbu.divider + 1 }
    else secondBoundary s
  else s

/-- The time of day SET_TIME's two argument words carry; absent when they are not valid (R141). -/
def setTimeArgument (hhmm ss : Word) : Option Nat :=
  match timeField hhmm, secondsField ss with
  | some m, some n => some (m + n)
  | _, _ => none

/-- The effect of an accepted SET_TIME for a time of day (R142). -/
def setClock (tod : Nat) (s : State) : State :=
  let now := dayCount s.cbu.now * 86400 + tod
  raiseFlag .clockSet
    (s.setCbu { clockSet := true, now, divider := 0, band := bandOf tod, tally := 0, capReached := false })

end Sys2Proof.Machine
end

