-- ==== Sys2Proof/WellFormed.lean ====
section
/-! DEFINITION. When a command is one its row describes: what can be said of its operands alone. -/

namespace Sys2Proof

/-- A value that names a command of Section 10.3 (11.8: 1 RUN to 7 CLEAR_LOCKOUT). -/
def namesCommand (code : Word) : Bool := 1 ≤ code.toNat && code.toNat ≤ 7

/-- The request field of a status word, bits 15:12, holds CANCEL, 12 (11.3). -/
def asksCancel (w : Word) : Bool := w.toNat / 4096 == 12

/-- The operands fit the row. CANCEL_REQUEST carries a CANCEL request (R42); UNKNOWN_COMMAND carries a value naming
no command (R182); STRAY_READ has no operand that could not be one; the other rows take every operand of their types. -/
def Instr.wellFormed : Instr → Bool
  | .cancelRequest _ data => asksCancel data
  | .unknownCommand code => !namesCommand code
  | .resetnAssert => true
  | .resetnRelease _ => true
  | .secondBoundary => true
  | .confirmExpiry _ => true
  | .runEnd _ => true
  | .guardExpiry _ => true
  | .staleExpiry _ => true
  | .releasePass => true
  | .submitAdvance => true
  | .takeAdvance => true
  | .slotWordWrite => true
  | .reportWordWrite => true
  | .sequenceWordWrite => true
  | .passedCycle _ => true
  | .memoryAcknowledge _ => true
  | .memoryPortTimeout => true
  | .cycleAbandon => true
  | .refusedCycle _ => true
  | .strayRead _ _ => true
  | .fetchRead _ => true
  | .indexStall => true
  | .indexRead _ => true
  | .run => true
  | .hold => true
  | .reload => true
  | .setTime => true
  | .cancelTag => true
  | .withdrawHouse => true
  | .clearLockout => true
  | .sweepVisit => true
  | .flagClearWrite _ => true
  | .enableWrite _ => true
  | .counterClear _ _ => true
  | .argumentWordWrite _ _ => true

end Sys2Proof
end

