-- ==== Sys2Proof/Machine/Passage.lean ====
section
/-! DEFINITION. How the part decodes an upstream cycle (R150 to R155 and the owning chapters), and the memory-port
arbiter (R161). -/

namespace Sys2Proof.Machine

/-- What an absorbed write reaches (R155, R42). -/
inductive AbsorbTarget where
  | cancel (slot : Fin 64)
  | status (word : Fin 64)
  deriving DecidableEq, Repr

/-- The outcome of a decode (R151): pass, snoop and redirect make a memory-port cycle; a stray read is answered with 0
and raises INDEX_FAULT (R17). -/
inductive Decoded where
  | memory (outcome : MemOutcome)
  | answer (value : Word)
  | stray
  | absorb (target : AbsorbTarget)
  | refuse (kind : FaultKind) (cause : FaultCause)
  deriving DecidableEq, Repr

/-! ### The windows -/

/-- The offset of an address in a window of `len` words from `base`, absent outside it. -/
def offsetIn (base len : Nat) (a : Addr) : Option Nat :=
  if base ≤ a.toNat ∧ a.toNat < base + len then some (a.toNat - base) else none

/-- The first address of the station region (R164). -/
def regionBase (s : State) : Nat := s.bpu.imgsel.toNat * 65536

/-- Station region word 3584 is word 0 of the status block (R164). -/
def statusOffset : Nat := 3584

/-- The address of status block word w. -/
def statusAddr (s : State) (w : Nat) : Addr := BitVec.ofNat 20 (regionBase s + statusOffset + w)

/-! ### Legal advances -/

/-- A submit write of v is a legal advance (R5). -/
def legalSubmit (t : Tables) (s : State) (v : Word) : Bool :=
  decide (dist s.rt.submit v ≤ t.map.ringSize.slots - dist s.rt.reclaim s.rt.submit)

/-- A take write of v is a legal advance (R8). -/
def legalTake (s : State) (v : Word) : Bool := decide (dist s.rt.take v ≤ dist s.rt.take s.rt.release)

/-! ### Window by window -/

def refuseProtect (cause : FaultCause) : Decoded := .refuse .protectViolation cause

def refuseIndex (cause : FaultCause) : Decoded := .refuse .indexFault cause

/-- A host write to word w of slot k (R26, R27, R28, R42). -/
def decodeSlotWrite (s : State) (c : Cycle) (k : Fin 64) (w : Nat) : Decoded :=
  let e := s.ob.at k
  if !c.full then refuseProtect .width
  else if e.state = .free then
    if w < 6 then .memory (.snoop (.slotWord k (Fin.ofNat 6 w))) else .memory .pass
  else if w < 7 then refuseProtect .submitted
  else if asksCancel c.data then .absorb (.cancel k)
  else refuseProtect .badRequest

/-- A read of word w of slot k by the host or the panel (R27, R40, R41). -/
def decodeSlotRead (s : State) (k : Fin 64) (w : Nat) : Decoded :=
  let e := s.ob.at k
  if w < 6 then .memory .pass
  else if w = 6 then
    match e.state with
    | .released => .answer (grantWord e.grant)
    | .dispatched => .answer (grantWord e.grant)
    | .free => .memory .pass
    | .waiting => .memory .pass
    | .refused => .memory .pass
    | .cancelled => .memory .pass
    | .expired => .memory .pass
  else if e.state = .free then .memory .pass
  else .answer (entryStatusWord e)

/-- The release list entry a link read of slot k concerns, absent for a stray read (R14). -/
def positionEntry (t : Tables) (s : State) (k : Fin 64) : Option Released :=
  let d := distToSlot t.map.ringSize s.rt.take k
  if d < dist s.rt.take s.rt.release then s.rt.list[d]? else none

/-- A link read of word w at slot k (R14 to R17, R128). -/
def decodeLinkRead (t : Tables) (s : State) (k : Fin 64) (w : Nat) : Decoded :=
  match positionEntry t s k with
  | none => .stray
  | some x =>
    match x.origin with
    | .host j =>
      if w < 6 then .memory (.redirect (t.map.ringBase + BitVec.ofNat 20 (8 * j.val + w)))
      else if w = 6 then .answer (presentTime x.grant)
      else .answer (statusWord (s.ob.at j).late .released .none)
    | .internal e =>
      if w < 6 then
        match storeOrder (s.ilu.store.at e) with
        | some o => .answer (linkImage o e w)
        | none => .answer 0
      else if w = 6 then .answer (presentTime x.grant)
      else .answer (statusWord false .released .none)

/-- A cycle to a ring word, at offset `off` from the ring base (R1, R18). -/
def decodeRing (t : Tables) (s : State) (c : Cycle) (off : Nat) : Decoded :=
  let k := Fin.ofNat 64 (off / 8)
  let w := off % 8
  match c.init with
  | .other => refuseProtect .initiator
  | .host => if c.write then decodeSlotWrite s c k w else decodeSlotRead s k w
  | .panel => if c.write then refuseProtect .access else decodeSlotRead s k w
  | .link => if c.write then refuseProtect .access else decodeLinkRead t s k w

/-- A cycle to the submit word (R5, R6, R7). -/
def decodeSubmit (t : Tables) (s : State) (c : Cycle) : Decoded :=
  match c.init with
  | .other => refuseIndex .initiator
  | .link => if c.write then refuseIndex .access else .answer s.rt.release
  | .panel => if c.write then refuseIndex .access else .memory .pass
  | .host =>
    if !c.write then .memory .pass
    else if !c.full then refuseIndex .width
    else if s.csu.sched = .reloading then refuseIndex .state
    else if legalSubmit t s c.data then .memory (.snoop .submitWord)
    else refuseIndex .advance

/-- A cycle to the take word (R8, R9, R10). -/
def decodeTake (s : State) (c : Cycle) : Decoded :=
  match c.init with
  | .other => refuseIndex .initiator
  | .host => if c.write then refuseIndex .access else .answer s.rt.reclaim
  | .panel => if c.write then refuseIndex .access else .answer s.rt.reclaim
  | .link =>
    if !c.write then .memory .pass
    else if !c.full then refuseIndex .width
    else if legalTake s c.data then .memory (.snoop .takeWord)
    else refuseIndex .advance

/-- A cycle to a report area word, at offset `off` from the base (R97, R98). -/
def decodeReport (c : Cycle) (off : Nat) : Decoded :=
  let h := Fin.ofNat 12 (off / 8)
  let w := off % 8
  match c.init with
  | .other => refuseProtect .initiator
  | .host => if c.write then refuseProtect .access else .memory .pass
  | .panel => if c.write then refuseProtect .access else .memory .pass
  | .link =>
    if !c.write then .memory .pass
    else if !c.full then refuseProtect .width
    else if w = 7 then .memory (.snoop (.sequenceWord h))
    else .memory (.snoop (.reportWord h (Fin.ofNat 7 w)))

/-- A cycle to the image area (R154). -/
def decodeImage (s : State) (c : Cycle) : Decoded :=
  match c.init with
  | .other => refuseProtect .initiator
  | .link => refuseProtect .access
  | .panel => if c.write then refuseProtect .access else .memory .pass
  | .host =>
    if !c.write then .memory .pass
    else
      match s.csu.sched with
      | .run => refuseProtect .state
      | .reloading => refuseProtect .state
      | .hold => .memory .pass
      | .unloaded => .memory .pass
      | .loading => .memory .pass

/-- A cycle to word w of the status block (R155). -/
def decodeStatus (s : State) (c : Cycle) (w : Nat) : Decoded :=
  match c.init with
  | .other => refuseProtect .initiator
  | .link => refuseProtect .access
  | .panel => if c.write then refuseProtect .access else .answer (statusBlockWord s w)
  | .host =>
    if !c.write then .answer (statusBlockWord s w)
    else if !c.full then refuseProtect .width
    else if writableStatusWord w then .absorb (.status (Fin.ofNat 64 w))
    else refuseProtect .access

/-- The windows of the map in force (R150); an address in none of them passes. -/
def decodeMapped (t : Tables) (s : State) (c : Cycle) : Decoded :=
  match offsetIn t.map.ringBase.toNat (8 * t.map.ringSize.slots) c.addr with
  | some off => decodeRing t s c off
  | none =>
    if c.addr = t.map.submitAddr then decodeSubmit t s c
    else if c.addr = t.map.takeAddr then decodeTake s c
    else
      match offsetIn t.map.reportBase.toNat (8 * t.map.houseCount.val) c.addr with
      | some off => decodeReport c off
      | none => .memory .pass

/-- The decode of an upstream cycle (R150): the station region, then the windows of the map in force, which is empty
while no tables are in force (R1, R163). -/
def decodeCycle (s : State) (c : Cycle) : Decoded :=
  match offsetIn (regionBase s) 3584 c.addr with
  | some _ => decodeImage s c
  | none =>
    match offsetIn (regionBase s + statusOffset) 64 c.addr with
    | some w => decodeStatus s c w
    | none =>
      match s.tables with
      | none => .memory .pass
      | some t => decodeMapped t s c

/-! ### The arbiter (R161) -/

/-- An address field in two words: bits 15:0, then bits 19:16 (11.7). -/
def addressField (lo hi : Word) : Addr := BitVec.ofNat 20 (lo.toNat + field hi 0 4 * 65536)

/-- Staged image word k. -/
def staged (l : List Word) (k : Nat) : Word := l.getD k 0

/-- The loader may read the index words: throughout a power-on load, and from the grant of the index stall in a reload
(R4, R160). -/
def indexReadsAllowed (s : State) : Bool := s.bpu.indexStall || s.iml.kind == .powerOn

/-- The address of the loader's next fetch read, while a load wants one (R162, R168, R169). -/
def loaderAddr (s : State) : Option Addr :=
  match s.iml.phase with
  | .idle => none
  | .complete => none
  | .header => some (BitVec.ofNat 20 (regionBase s + s.iml.nextFetch))
  | .body => some (BitVec.ofNat 20 (regionBase s + s.iml.nextFetch))
  | .index =>
    if indexReadsAllowed s then
      match s.iml.indexSubmit with
      | none => some (addressField (staged s.iml.staging 3) (staged s.iml.staging 4))
      | some _ => some (addressField (staged s.iml.staging 5) (staged s.iml.staging 6))
    else none

/-- The master cycle waiting for the port, with its outcome (R161). -/
def masterWaiting (s : State) : Option (Cycle × MemOutcome × Bool) :=
  match s.bpu.upstream with
  | some u =>
    match u.stage with
    | .waiting o => some (u.cycle, o, u.abandoned)
    | .held => none
    | .inFlight _ => none
  | none => none

/-- The address a master's memory-port cycle carries: its own, or the redirected one (R148). -/
def portAddr (c : Cycle) : MemOutcome → Addr
  | .pass => c.addr
  | .snoop _ => c.addr
  | .redirect a => a

/-- The port is granted to the master cycle (R148, R161). -/
def grantMaster (c : Cycle) (o : MemOutcome) (abandoned : Bool) (s : State) : State :=
  let m := { owner := .master, addr := portAddr c o, write := c.write, lanes := c.lanes, data := c.data,
             timeout := s.bpu.timeout : MemCycle }
  s.setBpu { s.bpu with
    memPort := some m
    lastGrant := .master
    upstream := some { cycle := c, stage := .inFlight o, abandoned } }

/-- The port is granted to the loader's full-width fetch read (R161, R162). -/
def grantLoader (a : Addr) (s : State) : State :=
  let m := { owner := .loader, addr := a, write := false, lanes := 3, data := 0, timeout := s.bpu.timeout : MemCycle }
  s.setBpu { s.bpu with memPort := some m, lastGrant := .loader }

/-- The arbiter's grant when the port is free (R161); nothing while a memory-port cycle is in flight or RESETN is
asserted (R159). -/
def grant (s : State) : State :=
  if s.bpu.resetn || s.bpu.memPort.isSome then s
  else
    match masterWaiting s, loaderAddr s with
    | none, none => s
    | some (c, o, ab), none => grantMaster c o ab s
    | none, some a => grantLoader a s
    | some (c, o, ab), some a =>
      match s.bpu.lastGrant with
      | .loader => grantMaster c o ab s
      | .master => grantLoader a s

end Sys2Proof.Machine
end

