-- ==== Sys2Proof/Machine/Control.lean ====
section
/-! DEFINITION. The Command and Status Unit: the command protocol, the commands, and the sweeps (chapter 10). -/

namespace Sys2Proof.Machine

/-- The commands of Section 10.3. -/
inductive Command where
  | run
  | hold
  | reload
  | setTime
  | cancelTag
  | withdrawHouse
  | clearLockout
  deriving DecidableEq, Repr

/-- The code that names a command (11.8). -/
def commandOf (code : Word) : Option Command :=
  match code.toNat with
  | 1 => some .run
  | 2 => some .hold
  | 3 => some .reload
  | 4 => some .setTime
  | 5 => some .cancelTag
  | 6 => some .withdrawHouse
  | 7 => some .clearLockout
  | _ => none

/-- The scheduler states in which a command is accepted (10.3). -/
def acceptedIn (cmd : Command) (st : Sched) : Bool :=
  match cmd with
  | .run => st == .hold
  | .hold => st == .hold || st == .run
  | .reload => st == .hold || st == .unloaded
  | .setTime => st == .hold
  | .cancelTag => st == .hold || st == .run
  | .withdrawHouse => st == .hold || st == .run
  | .clearLockout => st == .hold || st == .run

/-- A long command is in flight: a reload or a sweep (R182). -/
def longInFlight (s : State) : Bool := s.csu.sched == .reloading || s.csu.sweep.kind != .none

/-- The quiet conditions of R174: no host order WAITING or RELEASED, the store empty, every group QUIET. -/
def quiet (s : State) : Bool :=
  ((List.finRange 64).all fun k => (s.ob.at k).state != .waiting && (s.ob.at k).state != .released)
    && ((List.finRange 8).all fun e => s.ilu.store.at e == .free)
    && (List.finRange 8).all fun g => s.psu.groups.at g == .quiet

/-- The argument words. -/
def argument (s : State) (n : Fin 3) : Word := s.csu.arguments.at n

/-- A command's arguments are valid (R141, R186, R188). -/
def argumentsValid (s : State) (cmd : Command) : Bool :=
  match cmd with
  | .setTime => (setTimeArgument (argument s 0) (argument s 1)).isSome
  | .withdrawHouse => s.tables.any fun t => decide ((argument s 0).toNat < t.map.houseCount.val)
  | .clearLockout =>
    s.tables.any fun t => decide ((argument s 0).toNat < t.pumpCount.val)
      && (s.psu.pumps.at (Fin.ofNat 32 (argument s 0).toNat)).state == .lockout
  | .run => true
  | .hold => true
  | .reload => true
  | .cancelTag => true

/-- The checks 2 to 6 of R182 in their order: the reason of the first that fails, or none. -/
def commandCheck (s : State) (cmd : Command) : CommandReason :=
  if !acceptedIn cmd s.csu.sched then .badState
  else if longInFlight s then .busy
  else if cmd = .run ∧ s.cbu.clockSet = false then .clockNotSet
  else if !argumentsValid s cmd then .badArgument
  else if cmd = .reload ∧ s.csu.sched = .hold ∧ quiet s = false then .notQuiet
  else .none

def setStatus (code : Word) (outcome : CommandOutcome) (reason : CommandReason) (s : State) : State :=
  s.setCsu { s.csu with status := { code, outcome, reason } }

def setSched (st : Sched) (s : State) : State := s.setCsu { s.csu with sched := st }

/-! ### Sweeps -/

/-- A WAITING entry matches the key (R188). -/
def sweepMatches (t : Tables) (kind : SweepKind) (key : Word) (o : Order) : Bool :=
  match kind with
  | .none => false
  | .cancelTag => o.tag == key
  | .withdrawHouse => (t.pumps.at o.pump).house.val == key.toNat

/-- The code of the sweep's command. -/
def sweepCode : SweepKind → Word
  | .none => 0
  | .cancelTag => 5
  | .withdrawHouse => 6

/-- The reason of an order a sweep cancels (R189). -/
def sweepReason : SweepKind → Reason
  | .none => .none
  | .cancelTag => .tagSweep
  | .withdrawHouse => .houseWithdrawn

/-- A sweep ends when its next index equals its end index (R191). -/
def endSweepIfDone (s : State) : State :=
  if s.csu.sweep.kind ≠ .none ∧ s.csu.sweep.next = s.csu.sweep.last then
    raiseFlag .sweepDone
      (setStatus (sweepCode s.csu.sweep.kind) .done .none
        (s.setCsu { s.csu with sweep := { s.csu.sweep with kind := .none } }))
  else s

/-- A sweep accepted (R188): kind, key and walk range, the missed counter cleared, the matching entries marked. -/
def startSweep (t : Tables) (kind : SweepKind) (s : State) : State :=
  let key := argument s 0
  let marked (k : Fin 64) : Entry :=
    let e := s.ob.at k
    if (waitingOrder e).any (sweepMatches t kind key) then { e with mark := true } else e
  let s1 := setStatus (sweepCode kind) .accepted .none (s.setOb (Tab.ofFn marked))
  endSweepIfDone (s1.setCsu { s1.csu with
    sweep := { kind, key, next := s.rt.reclaim, last := s.rt.submit }
    missed := 0 })

/-- One visit (R189): a WAITING marked entry is cancelled; the next index rises; the sweep ends at its end index. -/
def sweepVisit (t : Tables) (s : State) : State :=
  let k := slotOf t.map.ringSize s.csu.sweep.next
  let e := s.ob.at k
  let cancelled :=
    if e.state = .waiting ∧ e.mark = true then
      requestPass (reclaimAdvance t (putEntry k (leaveWaiting .cancelled (sweepReason s.csu.sweep.kind) e) s))
    else s
  endSweepIfDone (cancelled.setCsu { cancelled.csu with
    sweep := { cancelled.csu.sweep with next := cancelled.csu.sweep.next + 1 } })

/-! ### Commands -/

/-- A load begins (R168): phase HEADER, word 0, sum 0, nothing staged; the image reason of the last load stands
(R179). The loader's first fetch read is requested of the arbiter. -/
def beginLoad (kind : LoadKind) (origin : Option LoadOrigin) (s : State) : State :=
  grant (s.setIml { Iml.idleWith s.iml.reason with kind, phase := .header, origin })

/-- A RELOAD accepted (R174). -/
def acceptReload (s : State) : State :=
  let origin := if s.csu.sched = .unloaded then LoadOrigin.unloaded else LoadOrigin.hold
  beginLoad .reload (some origin) (setStatus 3 .accepted .none (setSched .reloading s))

/-- A CLEAR_LOCKOUT accepted (R186, R59). -/
def acceptClearLockout (t : Tables) (s : State) : State :=
  let p := Fin.ofNat 32 (argument s 0).toNat
  requestPass
    (putPump p (lockoutCleared (t.pumps.at p) s.cbu.now (reportedRunning s p) (s.psu.pumps.at p))
      (setStatus 7 .done .none s))

/-- The effect of an accepted command (10.3). -/
def acceptCommand (cmd : Command) (s : State) : State :=
  match cmd with
  | .run => requestPass (setSched .run (setStatus 1 .done .none s))
  | .hold => setSched .hold (setStatus 2 .done .none s)
  | .reload => acceptReload s
  | .setTime =>
    match setTimeArgument (argument s 0) (argument s 1) with
    | some tod => setClock tod (setStatus 4 .done .none s)
    | none => s
  | .cancelTag =>
    match s.tables with
    | some t => startSweep t .cancelTag s
    | none => s
  | .withdrawHouse =>
    match s.tables with
    | some t => startSweep t .withdrawHouse s
    | none => s
  | .clearLockout =>
    match s.tables with
    | some t => acceptClearLockout t s
    | none => s

/-- A command taken at the absorb of the command-word write (R181, R182, R183). -/
def takeCommand (code : Word) (s0 : State) : State :=
  let s := s0.setCsu { s0.csu with commandWord := code }
  match commandOf code with
  | none => setStatus code .refused .badArgument s
  | some cmd =>
    match commandCheck s cmd with
    | .none => acceptCommand cmd s
    | .badState => setStatus code .refused .badState s
    | .busy => setStatus code .refused .busy s
    | .badArgument => setStatus code .refused .badArgument s
    | .notQuiet => setStatus code .refused .notQuiet s
    | .clockNotSet => setStatus code .refused .clockNotSet s

/-- An absorbed write to a writable status block word (R155, R181, R192, R193, R194, 11.6). -/
def statusWrite (w : Fin 64) (v : Word) (s : State) : State :=
  match w.val with
  | 1 => takeCommand v s
  | 2 => s.setCsu { s.csu with arguments := s.csu.arguments.put 0 v }
  | 3 => s.setCsu { s.csu with arguments := s.csu.arguments.put 1 v }
  | 4 => s.setCsu { s.csu with arguments := s.csu.arguments.put 2 v }
  | 6 => clearFlags v s
  | 7 => writeEnables v s
  | 23 => s.setRsu { s.rsu with duplicates := 0 }
  | 24 => s.setRsu { s.rsu with incompletes := 0 }
  | 25 => s.setCsu { s.csu with missed := 0 }
  | _ => s

end Sys2Proof.Machine
end

