-- ==== Sys2Proof/Machine/Cycles.lean ====
section
/-! DEFINITION. An upstream cycle from its presentation on: held by a stall, or decoded and carried out (8.1, 8.3, 8.6,
8.8), and the rows that present one. -/

namespace Sys2Proof.Machine

/-! ### Beginning, ending, carrying out -/

/-- A stall is in force: throughout LOADING, and from the grant of the index stall (R159, R160). -/
def stalled (s : State) : Bool := s.csu.sched == .loading || s.bpu.indexStall

/-- The upstream cycle in progress and the ending last driven. -/
def setUpstream (u : Option UpCycle) (ending : UpEnding) (s : State) : State :=
  s.setBpu { s.bpu with upstream := u, ending }

/-- A cycle ended at its decode: none is in progress after it (R150, R151). -/
def endCycle (ending : UpEnding) (s : State) : State := setUpstream none ending s

/-- An absorbed write taken by the block that owns the word (R42, R155). -/
def absorbEffect (target : AbsorbTarget) (data : Word) (s : State) : State :=
  match target with
  | .status w => statusWrite w data s
  | .cancel k =>
    match s.tables with
    | some t => cancelSlot t k s
    | none => s

/-- A decoded cycle carried out (R151): handed to the arbiter, or ended at once. -/
def carryOut (c : Cycle) (d : Decoded) (s : State) : State :=
  match d with
  | .memory o => grant (setUpstream (some { cycle := c, stage := .waiting o, abandoned := false }) .idle s)
  | .answer v => endCycle (.ack (some v)) s
  | .stray => endCycle (.ack (some 0)) (raiseFault .indexFault c .stray s)
  | .absorb target => absorbEffect target c.data (endCycle (.ack none) s)
  | .refuse kind cause => endCycle .err (raiseFault kind c cause s)

/-- A cycle is presented. It is not begun while another is in progress or while RESETN is asserted (R147, R159, log 7).
A stall holds it before its decode; otherwise it is decoded and carried out. A row that stands for one outcome has no
effect where the decode gives another (log 8). -/
def present (row : Decoded → Bool) (c : Cycle) (s : State) : State :=
  if s.bpu.resetn || s.bpu.upstream.isSome then s
  else if stalled s then setUpstream (some { cycle := c, stage := .held, abandoned := false }) .idle s
  else if row (decodeCycle s c) then carryOut c (decodeCycle s c) s
  else s

/-- The cycle held by a stall that has just ended is decoded under the state then in force (R150, R159, R160,
log 10). -/
def endStall (s : State) : State :=
  match s.bpu.upstream with
  | none => s
  | some u =>
    match u.stage with
    | .held => carryOut u.cycle (decodeCycle s u.cycle) (setUpstream none s.bpu.ending s)
    | .waiting _ => s
    | .inFlight _ => s

/-- A full-width write by the dispatch processor. -/
def hostWrite (a : Addr) (data : Word) : Cycle := { addr := a, write := true, lanes := 3, init := .host, data }

/-- The outcomes a row stands for. -/
def anyOutcome (_ : Decoded) : Bool := true

def refusedOutcome : Decoded → Bool
  | .refuse _ _ => true
  | .memory _ => false
  | .answer _ => false
  | .stray => false
  | .absorb _ => false

def strayOutcome : Decoded → Bool
  | .stray => true
  | .memory _ => false
  | .answer _ => false
  | .absorb _ => false
  | .refuse _ _ => false

def cancelOutcome : Decoded → Bool
  | .absorb (.cancel _) => true
  | .absorb (.status _) => false
  | .memory _ => false
  | .answer _ => false
  | .stray => false
  | .refuse _ _ => false

/-! ### The rows -/

/-- PASSED_CYCLE (R150, R151). An answered read, which has no row, comes through this one (log 8). -/
def execPassedCycle (c : Cycle) (s : State) : Host.Outcome State Fault Refusal := .next (present anyOutcome c s)

/-- REFUSED_CYCLE (R156, R157). -/
def execRefusedCycle (c : Cycle) (s : State) : Host.Outcome State Fault Refusal := .next (present refusedOutcome c s)

/-- STRAY_READ (R17): a link read. -/
def execStrayRead (addr : Addr) (lanes : BitVec 2) (s : State) : Host.Outcome State Fault Refusal :=
  .next (present strayOutcome { addr, write := false, lanes, init := .link, data := 0 } s)

/-- CANCEL_REQUEST (R42). -/
def execCancelRequest (addr : Addr) (data : Word) (s : State) : Host.Outcome State Fault Refusal :=
  .next (present cancelOutcome (hostWrite addr data) s)

/-- The master drops USTB (R147): an undecoded cycle is dropped; a decoded one runs on and is not ended upstream. -/
def abandonCycle (s : State) : State :=
  match s.bpu.upstream with
  | none => s
  | some u =>
    match u.stage with
    | .held => setUpstream none s.bpu.ending s
    | .waiting _ => setUpstream (some { u with abandoned := true }) s.bpu.ending s
    | .inFlight _ => setUpstream (some { u with abandoned := true }) s.bpu.ending s

/-- CYCLE_ABANDON (R147). -/
def execCycleAbandon (s : State) : Host.Outcome State Fault Refusal := .next (abandonCycle s)

end Sys2Proof.Machine
end

