-- ==== Sys2Proof/Machine/Loading.lean ====
section
/-! DEFINITION. The Image Loader: staging, validation, the swap, failure, and the loader's rows (chapter 9). -/

namespace Sys2Proof.Machine

/-! ### The staged image (9.2, 11.7) -/

/-- Staged word k as a number. -/
def stagedNat (l : List Word) (k : Nat) : Nat := (staged l k).toNat

def pumpCountOf (l : List Word) : Nat := stagedNat l 10

def houseCountOf (l : List Word) : Nat := stagedNat l 11

def reservoirCountOf (l : List Word) : Nat := stagedNat l 12

def feederCountOf (l : List Word) : Nat := stagedNat l 13

def imageLength (l : List Word) : Nat := stagedNat l 16

/-- The first words of entry k of each table (R169). -/
def pumpAt (k : Nat) : Nat := 32 + 8 * k

def houseAt (l : List Word) (k : Nat) : Nat := 32 + 8 * pumpCountOf l + 8 * k

def reservoirAt (l : List Word) (k : Nat) : Nat := 32 + 8 * pumpCountOf l + 8 * houseCountOf l + 4 * k

def feederAt (l : List Word) (k : Nat) : Nat :=
  32 + 8 * pumpCountOf l + 8 * houseCountOf l + 4 * reservoirCountOf l + 2 * k

def bandAt (l : List Word) (k : Nat) : Nat :=
  32 + 8 * pumpCountOf l + 8 * houseCountOf l + 4 * reservoirCountOf l + 2 * feederCountOf l + 2 * k

/-- The length the four counts give (R169). -/
def countedLength (l : List Word) : Nat := bandAt l 48

/-- The ring size a code names (11.7). -/
def ringSizeOf (code : Nat) : Option RingSize :=
  match code with
  | 0 => some .n8
  | 1 => some .n16
  | 2 => some .n32
  | 3 => some .n64
  | _ => none

def stagedRingSize (l : List Word) : Option RingSize := ringSizeOf (field (staged l 9) 0 4)

/-- The ring size of an image that has passed RANGE. -/
def ringSizeIn (l : List Word) : RingSize := (stagedRingSize l).getD .n8

/-- The address field at header words k and k + 1. -/
def headerAddr (l : List Word) (k : Nat) : Addr := addressField (staged l k) (staged l (k + 1))

/-! ### The tables of an image -/

def pumpOf (l : List Word) (k : Nat) : PumpStatic :=
  let w (i : Nat) : Nat := stagedNat l (pumpAt k + i)
  { house := Fin.ofNat 12 (w 0), position := Fin.ofNat 4 (w 1), feeder := Fin.ofNat 4 (w 2),
    runningUnits := w 3 % 256, startingUnits := w 3 / 256, minRun := w 4, minRest := w 5, startsPerHour := w 6,
    confirmTimeout := w 7 }

def houseOf (l : List Word) (k : Nat) : HouseStatic :=
  let w (i : Nat) : Nat := stagedNat l (houseAt l k + i)
  { suction := Fin.ofNat 16 (w 0), delivery := Fin.ofNat 16 (w 1), group := Fin.ofNat 8 (w 2), surgeGuard := w 3,
    staleTime := w 4 }

def reservoirOf (l : List Word) (k : Nat) : ReservoirStatic :=
  let w (i : Nat) : Nat := stagedNat l (reservoirAt l k + i)
  { fixed := w 0 == 1, trip := w 1, lowSuction := w 2, high := w 3 }

def bandEntryOf (l : List Word) (k : Nat) : Band :=
  { floor := stagedNat l (bandAt l k), cap := stagedNat l (bandAt l k + 1) }

/-- The window map of an image (R163). -/
def mapOf (l : List Word) : WindowMap :=
  { ringBase := headerAddr l 1, ringSize := ringSizeIn l, submitAddr := headerAddr l 3, takeAddr := headerAddr l 5,
    reportBase := headerAddr l 7, houseCount := Fin.ofNat 13 (houseCountOf l) }

/-- The tables of an image that has passed validation. -/
def parseTables (l : List Word) : Tables :=
  { map := mapOf l, pumpCount := Fin.ofNat 33 (pumpCountOf l), reservoirCount := Fin.ofNat 17 (reservoirCountOf l),
    feederCount := Fin.ofNat 5 (feederCountOf l), defaultWindow := stagedNat l 14, timeout := stagedNat l 15,
    pumps := Tab.ofFn fun k => pumpOf l k.val, houses := Tab.ofFn fun k => houseOf l k.val,
    reservoirs := Tab.ofFn fun k => reservoirOf l k.val, limits := Tab.ofFn fun k => stagedNat l (feederAt l k.val),
    bands := Tab.ofFn fun k => bandEntryOf l k.val }

/-! ### Validation (R169 to R172) -/

def within (lo hi n : Nat) : Bool := decide (lo ≤ n) && decide (n ≤ hi)

/-- The header's RANGE fields (R166). -/
def headerInRange (l : List Word) : Bool :=
  (stagedRingSize l).isSome && within 1 32 (pumpCountOf l) && within 1 12 (houseCountOf l)
    && within 1 16 (reservoirCountOf l) && within 1 4 (feederCountOf l) && within 60 7200 (stagedNat l 14)
    && within 4 255 (stagedNat l 15)

/-- A pump entry's own ranges (R167); its references are judged by TOPOLOGY (R172, log 14). The byte fields of word 3
fill their range. -/
def pumpInRange (l : List Word) (k : Nat) : Bool :=
  within 0 3 (stagedNat l (pumpAt k + 1)) && within 0 14400 (stagedNat l (pumpAt k + 4))
    && within 0 14400 (stagedNat l (pumpAt k + 5)) && within 1 15 (stagedNat l (pumpAt k + 6))
    && within 10 600 (stagedNat l (pumpAt k + 7))

def houseInRange (l : List Word) (k : Nat) : Bool :=
  within 0 7 (stagedNat l (houseAt l k + 2)) && within 5 600 (stagedNat l (houseAt l k + 3))
    && within 20 3600 (stagedNat l (houseAt l k + 4))

def reservoirInRange (l : List Word) (k : Nat) : Bool :=
  within 0 1 (stagedNat l (reservoirAt l k)) && within 0 9999 (stagedNat l (reservoirAt l k + 1))
    && within 0 9999 (stagedNat l (reservoirAt l k + 2)) && within 0 9999 (stagedNat l (reservoirAt l k + 3))

def feederInRange (l : List Word) (k : Nat) : Bool := within 1 4095 (stagedNat l (feederAt l k))

/-- A band's priority floor; its energy cap takes every value (R167). -/
def bandInRange (l : List Word) (k : Nat) : Bool := within 0 7 (stagedNat l (bandAt l k))

/-- Check 5: every field lies in its range (R170). -/
def rangeHolds (l : List Word) : Bool :=
  headerInRange l && (List.range (pumpCountOf l)).all (pumpInRange l) && (List.range (houseCountOf l)).all (houseInRange l)
    && (List.range (reservoirCountOf l)).all (reservoirInRange l) && (List.range (feederCountOf l)).all (feederInRange l)
    && (List.range 48).all (bandInRange l)

/-- Two windows, first address and length each, share no address. -/
def apart (a b : Nat × Nat) : Bool := decide (a.1 + a.2 ≤ b.1) || decide (b.1 + b.2 ≤ a.1)

/-- The five windows of R171. -/
def windowsOf (base : Nat) (l : List Word) : List (Nat × Nat) :=
  [(base, 4096), ((headerAddr l 1).toNat, 8 * (ringSizeIn l).slots), ((headerAddr l 3).toNat, 1),
   ((headerAddr l 5).toNat, 1), ((headerAddr l 7).toNat, 8 * houseCountOf l)]

/-- Every two windows of the list are apart. -/
def pairwiseApart : List (Nat × Nat) → Bool
  | [] => true
  | a :: rest => rest.all (apart a) && pairwiseApart rest

/-- Check 6 (R171). -/
def placementHolds (base : Nat) (l : List Word) : Bool :=
  decide ((headerAddr l 1).toNat % 8 = 0) && (windowsOf base l).all (fun a => decide (a.1 + a.2 ≤ 1048576))
    && pairwiseApart (windowsOf base l)

/-- Pump k names a configured house and feeder, and no earlier pump names its house and position (R172). -/
def pumpAgrees (l : List Word) (k : Nat) : Bool :=
  decide (stagedNat l (pumpAt k) < houseCountOf l) && decide (stagedNat l (pumpAt k + 2) < feederCountOf l)
    && (List.range k).all fun j =>
        stagedNat l (pumpAt j) != stagedNat l (pumpAt k) || stagedNat l (pumpAt j + 1) != stagedNat l (pumpAt k + 1)

def houseAgrees (l : List Word) (k : Nat) : Bool :=
  decide (stagedNat l (houseAt l k) < reservoirCountOf l) && decide (stagedNat l (houseAt l k + 1) < reservoirCountOf l)

/-- A reservoir not fixed has its levels in order (R172). -/
def reservoirAgrees (l : List Word) (k : Nat) : Bool :=
  stagedNat l (reservoirAt l k) != 0
    || (decide (stagedNat l (reservoirAt l k + 1) < stagedNat l (reservoirAt l k + 2))
        && decide (stagedNat l (reservoirAt l k + 2) < stagedNat l (reservoirAt l k + 3)))

/-- Check 7 (R172). -/
def topologyHolds (l : List Word) : Bool :=
  (List.range (pumpCountOf l)).all (pumpAgrees l) && (List.range (houseCountOf l)).all (houseAgrees l)
    && (List.range (reservoirCountOf l)).all (reservoirAgrees l)

/-- Checks 2 and 3, at the end of HEADER (R169): the failing reason, or none. -/
def headerCheck (l : List Word) : ImageReason :=
  if staged l 0 ≠ 1 then .format
  else if imageLength l ≠ countedLength l ∨ Config.imageMax < imageLength l then .length
  else .none

/-- Checks 4 to 7, at the end of BODY (R170): the failing reason, or none. -/
def bodyCheck (base : Nat) (sum : Word) (l : List Word) : ImageReason :=
  if sum ≠ 0 then .checksum
  else if !rangeHolds l then .range
  else if !placementHolds base l then .overlap
  else if !topologyHolds l then .topology
  else .none

/-! ### Failure (R173, R178) -/

/-- The scheduler state a failed load returns to. -/
def failedSched (s : State) : Sched :=
  match s.iml.kind, s.iml.origin with
  | .reload, some .hold => .hold
  | .reload, some .unloaded => .unloaded
  | .reload, none => .unloaded
  | .powerOn, _ => .unloaded
  | .none, _ => .unloaded

/-- A failed RELOAD shows REJECTED (R183). -/
def rejectReload (kind : LoadKind) (s : State) : State :=
  match kind with
  | .reload => setStatus 3 .rejected .none s
  | .powerOn => s
  | .none => s

/-- The loader is IDLE with the reason of the load that ended, and its stall is over (R168, R179, R160). -/
def endLoad (reason : ImageReason) (s : State) : State :=
  (s.setIml (Iml.idleWith reason)).setBpu { s.bpu with indexStall := false }

/-- The load fails with `reason` (R173, R178): the held cycle, if any, is then decoded and the port granted. -/
def failLoad (reason : ImageReason) (s : State) : State :=
  let s1 := rejectReload s.iml.kind (setSched (failedSched s) s)
  grant (endStall (raiseFlag .imageRejected (endLoad reason s1)))

/-! ### The swap (R177) -/

/-- The pump is configured under the tables in force, if any. -/
def configuredIn (tables : Option Tables) (p : Fin 32) : Bool := tables.any fun t => configured t p

/-- The PSU's part (R46): dynamic fields are kept for pumps configured under both images. -/
def swapPump (old : Option Tables) (new : Tables) (p : Fin 32) (r : PumpRec) : PumpRec :=
  if configured new p then
    { (if configuredIn old p then r else PumpRec.reset) with allowance := (new.pumps.at p).startsPerHour }
  else PumpRec.reset

def swapPsu (old : Option Tables) (new : Tables) (psu : Psu) : Psu :=
  { pumps := Tab.ofFn fun p => swapPump old new p (psu.pumps.at p), groups := Tab.all .quiet }

/-- The RSU's part (R113). -/
def swapRsu (old : Option Tables) (new : Tables) (rsu : Rsu) : Rsu :=
  let both (p : Fin 32) : Bool := configuredIn old p && configured new p
  { rsu with
    houses := Tab.all HouseRec.reset
    levels := Tab.all none
    runningBits := Tab.ofFn fun p => both p && rsu.runningBits.at p
    faultBits := Tab.ofFn fun p => both p && rsu.faultBits.at p }

/-- The Ring Tracker's part (R4). -/
def swapRt (submit take : Word) : Rt := { submit, reclaim := submit, release := take, take, list := [] }

/-- The swap, at one moment (R177); the CBU's own judgement and the CSU's part are the completion's. -/
def swapTables (new : Tables) (submit take : Word) (s : State) : State :=
  let s1 := (s.setPsu (swapPsu s.tables new s.psu)).setRsu (swapRsu s.tables new s.rsu)
  let s2 := s1.setIlu { s1.ilu with store := Tab.all .free, owed := Tab.all none }
  let s3 := (s2.setRt (swapRt submit take)).setOb (Tab.all Entry.reset)
  (s3.setBpu { s3.bpu with timeout := new.timeout }).setTables (some new)

/-- The cap judged afresh against the table in force (R145). -/
def judgeCapAfresh (s : State) : State :=
  let hit := capHit (bandCap s) s.cbu.tally
  raiseFlagIf (hit && !s.cbu.capReached) .energyCap (s.setCbu { s.cbu with capReached := hit })

/-! ### Completion (R173, R176) -/

/-- Pump p fails the plant check against the new image: it is configured and not STOPPED, and the new image drops it or
moves it to another house or feeder (R47). -/
def plantMismatch (old : Tables) (new : Tables) (s : State) (p : Fin 32) : Bool :=
  configured old p && (s.psu.pumps.at p).state != .stopped
    && (!configured new p || (new.pumps.at p).house != (old.pumps.at p).house
        || (new.pumps.at p).feeder != (old.pumps.at p).feeder)

/-- Check 8 holds (R47); trivially where no image is in force. -/
def plantAgrees (new : Tables) (s : State) : Bool :=
  match s.tables with
  | none => true
  | some old => (List.finRange 32).all fun p => !plantMismatch old new s p

/-- The end of a successful load: IDLE with reason none, HOLD, and the stall over (R173, R176). -/
def succeed (s : State) : State := setSched .hold (endLoad .none s)

/-- A power-on load completes (R173): no flag is raised and no pass requested. -/
def completePowerOn (new : Tables) (submit take : Word) (s : State) : State :=
  grant (endStall (succeed (swapTables new submit take s)))

/-- A reload's swap and release (R176, steps 3 and 4). -/
def finishReload (new : Tables) (submit take : Word) (s : State) : State :=
  let s1 := judgeCapAfresh (swapTables new submit take s)
  let s2 := raiseFlag .reloadDone (setStatus 3 .done .none (succeed s1))
  grant (endStall (requestPass s2))

/-- A reload completes (R176): the quiet re-check, the plant check, then the swap. -/
def completeReload (new : Tables) (submit take : Word) (s : State) : State :=
  if !quiet s then failLoad .notQuiet s
  else if !plantAgrees new s then failLoad .plantMismatch s
  else finishReload new submit take s

/-- The completion of a load of either kind. -/
def completeLoad (submit take : Word) (s : State) : State :=
  let new := parseTables s.iml.staging
  match s.iml.kind with
  | .powerOn => completePowerOn new submit take s
  | .reload => completeReload new submit take s
  | .none => s

/-- The completion event, taken with both index values read (R173, R176). -/
def takeCompletion (s : State) : State :=
  match s.iml.indexSubmit, s.iml.indexTake with
  | some submit, some take => completeLoad submit take s
  | some _, none => s
  | none, _ => s

/-! ### Fetch reads -/

/-- The loader's cycle in flight. -/
def loaderInFlight (s : State) : Bool := s.bpu.memPort.any fun m => m.owner == .loader

/-- The port falls free. -/
def freePort (s : State) : State := s.setBpu { s.bpu with memPort := none }

/-- The loader goes on with a new phase and fetch address, the word staged and counted in the sum. -/
def continueLoad (phase : LoadPhase) (next : Nat) (data : Word) (s : State) : State :=
  grant (s.setIml { s.iml with phase, nextFetch := next, sum := s.iml.sum + data, staging := s.iml.staging ++ [data] })

/-- Word 31 has been read (R169). -/
def headerRead (data : Word) (s : State) : State :=
  match headerCheck (s.iml.staging ++ [data]) with
  | .none => continueLoad .body (s.iml.nextFetch + 1) data s
  | r => failLoad r s

/-- The last word has been read (R170). The next fetch address is not raised past it (log 22). -/
def bodyRead (data : Word) (s : State) : State :=
  match bodyCheck (regionBase s) (s.iml.sum + data) (s.iml.staging ++ [data]) with
  | .none => continueLoad .index s.iml.nextFetch data s
  | r => failLoad r s

/-- An image word acknowledged, the port free (R169). -/
def imageWordRead (data : Word) (s : State) : State :=
  match s.iml.phase with
  | .header =>
    if s.iml.nextFetch < 31 then continueLoad .header (s.iml.nextFetch + 1) data s else headerRead data s
  | .body =>
    if s.iml.nextFetch + 1 < imageLength s.iml.staging then continueLoad .body (s.iml.nextFetch + 1) data s
    else bodyRead data s
  | .idle => s
  | .index => s
  | .complete => s

/-- The take word read (R176): the loader enters COMPLETE. In a reload the completion event is taken with the read
(`atOnce`) or left for other events to come before it; a power-on load, on which none can bear, completes at once
(log 23). -/
def takeWordRead (data : Word) (atOnce : Bool) (s : State) : State :=
  let s1 := s.setIml { s.iml with indexTake := some data, phase := .complete }
  if atOnce || s.iml.kind == .powerOn then takeCompletion s1 else s1

/-- An index word acknowledged, the port free (R4, R176): the submit word first, then the take word. -/
def indexWordRead (data : Word) (atOnce : Bool) (s : State) : State :=
  match s.iml.indexSubmit with
  | none => grant (s.setIml { s.iml with indexSubmit := some data })
  | some _ => takeWordRead data atOnce s

/-- The acknowledge of the loader's read in flight. -/
def loaderAcknowledged (data : Word) (atOnce : Bool) (s : State) : State :=
  match s.iml.phase with
  | .index => indexWordRead data atOnce (freePort s)
  | .header => imageWordRead data (freePort s)
  | .body => imageWordRead data (freePort s)
  | .idle => freePort s
  | .complete => freePort s

/-- A load is fetching image words. -/
def fetchPhase (s : State) : Bool := s.iml.phase == .header || s.iml.phase == .body

/-! ### The rows -/

/-- FETCH_READ (R169). -/
def execFetchRead (data : Word) (s : State) : Host.Outcome State Fault Refusal :=
  .next (if loaderInFlight s && fetchPhase s then loaderAcknowledged data true s else s)

/-- INDEX_READ (R4, R176): after the second read the load completes. A second read after which other events come before
a reload's completion is a MEMORY_ACKNOWLEDGE (log 23). -/
def execIndexRead (data : Word) (s : State) : Host.Outcome State Fault Refusal :=
  .next (if loaderInFlight s && s.iml.phase == .index then loaderAcknowledged data true s else s)

/-- The loader asks for the index stall and no master cycle is in flight (R160). -/
def stallGrantable (s : State) : Bool :=
  s.iml.kind == .reload && s.iml.phase == .index && !s.bpu.indexStall && s.bpu.upstream.isNone

/-- The stall is granted, and the loader's read of the submit word is requested (R160); with both index words read,
the completion event that other events came before is taken within the stall (R176, log 23). -/
def serveIndexStall (s : State) : State :=
  if s.iml.phase = .complete then takeCompletion s
  else if stallGrantable s then grant (s.setBpu { s.bpu with indexStall := true })
  else s

/-- INDEX_STALL (R160, R176). -/
def execIndexStall (s : State) : Host.Outcome State Fault Refusal := .next (serveIndexStall s)

end Sys2Proof.Machine
end

