-- ==== Sys2Proof/Machine/Acknowledges.lean ====
section
/-! DEFINITION. The acknowledge and the timeout of a memory-port cycle (R148, R151, R153, R158), and their rows. -/

namespace Sys2Proof.Machine

/-- The effect of a snooped write at its acknowledge (R153), by its owner. -/
def snoopTaken (t : Tables) (target : SnoopTarget) (v : Word) (s : State) : State :=
  match target with
  | .slotWord k w => recordSlotWord k w v s
  | .submitWord => submitAcknowledged t v s
  | .takeWord => takeAcknowledged t v s
  | .reportWord h w => reportWord h w v s
  | .sequenceWord h => sequenceAcknowledged t h v s

/-- The effect of a memory-port cycle at its acknowledge: none but for a snooped write (R151). -/
def acknowledgedEffect (o : MemOutcome) (v : Word) (s : State) : State :=
  match o with
  | .pass => s
  | .redirect _ => s
  | .snoop target =>
    match s.tables with
    | some t => snoopTaken t target v s
    | none => s

/-- The master's cycle in flight on the memory port, with its outcome. -/
def masterInFlight (s : State) : Option (UpCycle × MemOutcome) :=
  match s.bpu.memPort, s.bpu.upstream with
  | some m, some u =>
    match m.owner, u.stage with
    | .master, .inFlight o => some (u, o)
    | .master, .held => none
    | .master, .waiting _ => none
    | .loader, _ => none
  | _, _ => none

/-- The ending of a master cycle: not driven upstream once the cycle is abandoned (R147). -/
def drivenEnding (u : UpCycle) (ending : UpEnding) (s : State) : UpEnding :=
  if u.abandoned then s.bpu.ending else ending

/-- The port falls free and the master's cycle ends. -/
def endMaster (u : UpCycle) (ending : UpEnding) (s : State) : State :=
  s.setBpu { s.bpu with memPort := none, upstream := none, ending := drivenEnding u ending s }

/-- MACK for the master's cycle: UACK with memory's data for a read, the snoop's effect, and the next grant (R151,
R153, R161). -/
def masterAcknowledged (u : UpCycle) (o : MemOutcome) (data : Word) (s : State) : State :=
  let ending := UpEnding.ack (if u.cycle.write then none else some data)
  grant (acknowledgedEffect o u.cycle.data (endMaster u ending s))

/-- MACK for whatever is in flight; with nothing in flight it is disregarded (R148, log 9). A reload's second
index read so acknowledged leaves the completion event standing (R176, log 23). -/
def memoryAcknowledged (data : Word) (s : State) : State :=
  match masterInFlight s with
  | some (u, o) => masterAcknowledged u o data s
  | none => if loaderInFlight s then loaderAcknowledged data false s else s

/-- The timeout of the master's cycle (R158): UERR, BUS_TIMEOUT and the capture, no other effect. -/
def masterTimedOut (u : UpCycle) (s : State) : State :=
  grant (raiseFault .busTimeout u.cycle .timeout (endMaster u .err s))

/-- The cycle in flight reaches its timeout (R158, R162); nothing happens with none in flight. -/
def memoryTimedOut (s : State) : State :=
  match masterInFlight s with
  | some (u, _) => masterTimedOut u s
  | none => if loaderInFlight s then failLoad .busTimeout (freePort s) else s

/-- A row that names one snoop acknowledges only a cycle in flight with it (log 9). -/
def acknowledgeSnoop (row : SnoopTarget → Bool) (s : State) : State :=
  match masterInFlight s with
  | none => s
  | some (u, o) =>
    match o with
    | .snoop target => if row target then masterAcknowledged u o 0 s else s
    | .pass => s
    | .redirect _ => s

/-! ### The rows -/

def isSubmit : SnoopTarget → Bool
  | .submitWord => true
  | .slotWord _ _ => false
  | .takeWord => false
  | .reportWord _ _ => false
  | .sequenceWord _ => false

def isTake : SnoopTarget → Bool
  | .takeWord => true
  | .submitWord => false
  | .slotWord _ _ => false
  | .reportWord _ _ => false
  | .sequenceWord _ => false

def isSlotWord : SnoopTarget → Bool
  | .slotWord _ _ => true
  | .submitWord => false
  | .takeWord => false
  | .reportWord _ _ => false
  | .sequenceWord _ => false

def isReportWord : SnoopTarget → Bool
  | .reportWord _ _ => true
  | .slotWord _ _ => false
  | .submitWord => false
  | .takeWord => false
  | .sequenceWord _ => false

def isSequenceWord : SnoopTarget → Bool
  | .sequenceWord _ => true
  | .reportWord _ _ => false
  | .slotWord _ _ => false
  | .submitWord => false
  | .takeWord => false

/-- SUBMIT_ADVANCE (R5, R34). -/
def execSubmitAdvance (s : State) : Host.Outcome State Fault Refusal := .next (acknowledgeSnoop isSubmit s)

/-- TAKE_ADVANCE (R8, R19). -/
def execTakeAdvance (s : State) : Host.Outcome State Fault Refusal := .next (acknowledgeSnoop isTake s)

/-- SLOT_WORD_WRITE (R26). -/
def execSlotWordWrite (s : State) : Host.Outcome State Fault Refusal := .next (acknowledgeSnoop isSlotWord s)

/-- REPORT_WORD_WRITE (R100). -/
def execReportWordWrite (s : State) : Host.Outcome State Fault Refusal := .next (acknowledgeSnoop isReportWord s)

/-- SEQUENCE_WORD_WRITE (R101 to R111). -/
def execSequenceWordWrite (s : State) : Host.Outcome State Fault Refusal := .next (acknowledgeSnoop isSequenceWord s)

/-- MEMORY_ACKNOWLEDGE (R151). -/
def execMemoryAcknowledge (data : Word) (s : State) : Host.Outcome State Fault Refusal :=
  .next (memoryAcknowledged data s)

/-- MEMORY_PORT_TIMEOUT (R158, R162). -/
def execMemoryPortTimeout (s : State) : Host.Outcome State Fault Refusal := .next (memoryTimedOut s)

end Sys2Proof.Machine
end

