-- ==== Sys2Proof/Machine/Commands.lean ====
section
/-! DEFINITION. The rows of the Command and Status Unit: absorbed writes of the dispatch processor to the status block,
and sweep visits (chapter 10). -/

namespace Sys2Proof.Machine

/-- A full-width write by the dispatch processor to status block word w (R155). -/
def statusBlockWrite (w : Nat) (value : Word) (s : State) : State :=
  present anyOutcome (hostWrite (statusAddr s w) value) s

/-- A write of a command's code to the command word (R181, R182). -/
def commandWrite (code : Word) (s : State) : State := statusBlockWrite 1 code s

/-- RUN (R184). -/
def execRun (s : State) : Host.Outcome State Fault Refusal := .next (commandWrite 1 s)

/-- HOLD (R185). -/
def execHold (s : State) : Host.Outcome State Fault Refusal := .next (commandWrite 2 s)

/-- RELOAD (R174). -/
def execReload (s : State) : Host.Outcome State Fault Refusal := .next (commandWrite 3 s)

/-- SET_TIME (R142). -/
def execSetTime (s : State) : Host.Outcome State Fault Refusal := .next (commandWrite 4 s)

/-- CANCEL_TAG (R188). -/
def execCancelTag (s : State) : Host.Outcome State Fault Refusal := .next (commandWrite 5 s)

/-- WITHDRAW_HOUSE (R188). -/
def execWithdrawHouse (s : State) : Host.Outcome State Fault Refusal := .next (commandWrite 6 s)

/-- CLEAR_LOCKOUT (R186, R59). -/
def execClearLockout (s : State) : Host.Outcome State Fault Refusal := .next (commandWrite 7 s)

/-- UNKNOWN_COMMAND (R182): a value that names a command is no case of this row. -/
def execUnknownCommand (code : Word) (s : State) : Host.Outcome State Fault Refusal :=
  .next (if namesCommand code then s else commandWrite code s)

/-- FLAG_CLEAR_WRITE (R192). -/
def execFlagClearWrite (value : Word) (s : State) : Host.Outcome State Fault Refusal :=
  .next (statusBlockWrite 6 value s)

/-- ENABLE_WRITE (R193). -/
def execEnableWrite (value : Word) (s : State) : Host.Outcome State Fault Refusal := .next (statusBlockWrite 7 value s)

/-- The status block word of a counter (11.6). -/
def counterWord : Counter → Nat
  | .duplicate => 23
  | .incomplete => 24
  | .missed => 25

/-- COUNTER_CLEAR (R194): the counter becomes 0 whatever value the write carries (R197). -/
def execCounterClear (counter : Counter) (value : Word) (s : State) : Host.Outcome State Fault Refusal :=
  .next (statusBlockWrite (counterWord counter) value s)

/-- ARGUMENT_WORD_WRITE (R181). -/
def execArgumentWordWrite (number : Fin 3) (value : Word) (s : State) : Host.Outcome State Fault Refusal :=
  .next (statusBlockWrite (2 + number.val) value s)

/-- A visit is to be taken: a sweep is in flight and its next index differs from its end index (R189). -/
def visitDue (s : State) : Bool := s.csu.sweep.kind != .none && s.csu.sweep.next != s.csu.sweep.last

/-- The visit, if one is due and tables are in force. -/
def takeVisit (s : State) : State :=
  match s.tables with
  | some t => if visitDue s then sweepVisit t s else s
  | none => s

/-- SWEEP_VISIT (R189 to R191). -/
def execSweepVisit (s : State) : Host.Outcome State Fault Refusal := .next (takeVisit s)

end Sys2Proof.Machine
end

