-- ==== Sys2Proof/Machine/Events.lean ====
section
/-! DEFINITION. The rows that no bus cycle brings: RESETN, the second boundary, the expiries, and the release pass. -/

namespace Sys2Proof.Machine

/-! ### RESETN -/

/-- RESETN asserted (R159, R179, R191): every block takes its RESETN condition, whatever was in progress; the queue
is not the part's (log 15). -/
def resetAsserted (s : State) : State := State.reset.setPending s.pending

/-- RESETN_ASSERT (R159). -/
def execResetnAssert (s : State) : Host.Outcome State Fault Refusal := .next (resetAsserted s)

/-- RESETN released (R164, R173): IMGSEL is sampled and the power-on load begins, under the arbiter's grant. -/
def resetReleased (imgsel : BitVec 4) (s : State) : State :=
  if s.bpu.resetn then beginLoad .powerOn none (s.setBpu { s.bpu with resetn := false, imgsel }) else s

/-- RESETN_RELEASE (R164, R173). -/
def execResetnRelease (imgsel : BitVec 4) (s : State) : Host.Outcome State Fault Refusal :=
  .next (resetReleased imgsel s)

/-! ### Time -/

/-- SECOND_BOUNDARY (R135): the divider wraps while the clock is set (R132, log 5). -/
def execSecondBoundary (s : State) : Host.Outcome State Fault Refusal :=
  .next (if s.cbu.clockSet then secondBoundary s else s)

/-- A confirm expiry that is due is taken (R58). -/
def takeConfirmExpiry (p : Fin 32) (s : State) : State :=
  let r := s.psu.pumps.at p
  if confirmDue r then requestPass (raiseFlag .noConfirm (putPump p (confirmExpired r) s)) else s

/-- CONFIRM_EXPIRY (R58). -/
def execConfirmExpiry (pump : Fin 32) (s : State) : Host.Outcome State Fault Refusal := .next (takeConfirmExpiry pump s)

/-- Run-ends due go in ascending pump number (R62, log 13). -/
def firstRunEnd (s : State) (p : Fin 32) : Bool :=
  (List.finRange 32).find? (fun q => runEndDue (s.psu.pumps.at q)) == some p

/-- A run-end that is due is taken: it is cleared and the pump is handed to the Interlock Unit (R62, R121). -/
def takeRunEnd (p : Fin 32) (s : State) : State :=
  if firstRunEnd s p then
    requestPass (timedStop p (putPump p { s.psu.pumps.at p with runEnd := none } s))
  else s

/-- RUN_END (R62). -/
def execRunEnd (pump : Fin 32) (s : State) : Host.Outcome State Fault Refusal := .next (takeRunEnd pump s)

/-- The group is in GUARD and a second boundary has found its guard expiry reached (R71). -/
def guardDue : GroupRec → Bool
  | .guard _ _ x => x.due
  | .quiet => false
  | .armed _ _ => false

/-- A guard expiry that is due is taken (R71). -/
def takeGuardExpiry (g : Fin 8) (s : State) : State :=
  if guardDue (s.psu.groups.at g) then
    requestPass (s.setPsu { s.psu with groups := s.psu.groups.put g .quiet })
  else s

/-- GUARD_EXPIRY (R71). -/
def execGuardExpiry (group : Fin 8) (s : State) : Host.Outcome State Fault Refusal := .next (takeGuardExpiry group s)

/-- A stale expiry that is due is taken (R109). -/
def takeStaleExpiry (h : Fin 12) (s : State) : State :=
  if staleDue (s.rsu.houses.at h) then
    raiseFlag .houseStale (putHouse h { s.rsu.houses.at h with freshness := .stale } s)
  else s

/-- STALE_EXPIRY (R109). -/
def execStaleExpiry (house : Fin 12) (s : State) : Host.Outcome State Fault Refusal := .next (takeStaleExpiry house s)

/-! ### The release pass -/

/-- One pass is run for each request (R73, R74, log 21). With no tables in force there is nothing to judge. -/
def takePass (s : State) : State :=
  match s.ra.requests with
  | 0 => s
  | n + 1 =>
    match s.tables with
    | some t => releasePass t (s.setRa { s.ra with requests := n })
    | none => s.setRa { s.ra with requests := n }

/-- RELEASE_PASS (R73 to R94). -/
def execReleasePass (s : State) : Host.Outcome State Fault Refusal := .next (takePass s)

end Sys2Proof.Machine
end

