-- ==== Sys2Proof/Machine/Dispatch.lean ====
section
/-! DEFINITION. One arm per command: each calls its row's meaning. -/

namespace Sys2Proof.Machine

def exec (i : Instr) (s : State) : Host.Outcome State Fault Refusal :=
  match i with
  | .resetnAssert => Sys2Proof.Machine.execResetnAssert s
  | .resetnRelease imgsel => Sys2Proof.Machine.execResetnRelease imgsel s
  | .secondBoundary => Sys2Proof.Machine.execSecondBoundary s
  | .confirmExpiry pump => Sys2Proof.Machine.execConfirmExpiry pump s
  | .runEnd pump => Sys2Proof.Machine.execRunEnd pump s
  | .guardExpiry group => Sys2Proof.Machine.execGuardExpiry group s
  | .staleExpiry house => Sys2Proof.Machine.execStaleExpiry house s
  | .releasePass => Sys2Proof.Machine.execReleasePass s
  | .submitAdvance => Sys2Proof.Machine.execSubmitAdvance s
  | .takeAdvance => Sys2Proof.Machine.execTakeAdvance s
  | .slotWordWrite => Sys2Proof.Machine.execSlotWordWrite s
  | .reportWordWrite => Sys2Proof.Machine.execReportWordWrite s
  | .sequenceWordWrite => Sys2Proof.Machine.execSequenceWordWrite s
  | .passedCycle c => Sys2Proof.Machine.execPassedCycle c s
  | .memoryAcknowledge data => Sys2Proof.Machine.execMemoryAcknowledge data s
  | .memoryPortTimeout => Sys2Proof.Machine.execMemoryPortTimeout s
  | .cycleAbandon => Sys2Proof.Machine.execCycleAbandon s
  | .refusedCycle c => Sys2Proof.Machine.execRefusedCycle c s
  | .strayRead addr lanes => Sys2Proof.Machine.execStrayRead addr lanes s
  | .cancelRequest addr data => Sys2Proof.Machine.execCancelRequest addr data s
  | .fetchRead data => Sys2Proof.Machine.execFetchRead data s
  | .indexStall => Sys2Proof.Machine.execIndexStall s
  | .indexRead data => Sys2Proof.Machine.execIndexRead data s
  | .run => Sys2Proof.Machine.execRun s
  | .hold => Sys2Proof.Machine.execHold s
  | .reload => Sys2Proof.Machine.execReload s
  | .setTime => Sys2Proof.Machine.execSetTime s
  | .cancelTag => Sys2Proof.Machine.execCancelTag s
  | .withdrawHouse => Sys2Proof.Machine.execWithdrawHouse s
  | .clearLockout => Sys2Proof.Machine.execClearLockout s
  | .unknownCommand code => Sys2Proof.Machine.execUnknownCommand code s
  | .sweepVisit => Sys2Proof.Machine.execSweepVisit s
  | .flagClearWrite value => Sys2Proof.Machine.execFlagClearWrite value s
  | .enableWrite value => Sys2Proof.Machine.execEnableWrite value s
  | .counterClear counter value => Sys2Proof.Machine.execCounterClear counter value s
  | .argumentWordWrite number value => Sys2Proof.Machine.execArgumentWordWrite number value s

end Sys2Proof.Machine
end

