-- ==== Sys2Proof/Safety.lean ====
section
/-! DEFINITION. What holds of the part between any two steps: the invariants the manual states of each block, and the
conditions on a state under which a command reaches its own effect. -/

namespace Sys2Proof.Safety

open Sys2Proof.Machine

/-! ### Clock and Band Unit -/

/-- The ranges of chapter 7's table, the band agreeing with the time of day (R133), and the values that stand until the
clock is set (R134). -/
def ClockSound (s : State) : Prop :=
  s.cbu.now < Config.epochCycle ∧ s.cbu.divider < Config.trefPerSecond ∧ s.cbu.band = bandOf (timeOfDay s.cbu.now)
    ∧ s.cbu.tally ≤ Config.tallyMax
    ∧ (s.cbu.clockSet = false →
        s.cbu.now = 0 ∧ s.cbu.divider = 0 ∧ s.cbu.tally = 0 ∧ s.cbu.capReached = false)

/-! ### Pump State Unit -/

/-- The ranges R45 gives the fields of a record: which fields are present or set in which states. -/
def RecordSound (r : PumpRec) : Prop :=
  (r.lock ≠ .none → r.state = .lockout)
    ∧ (r.confirm.isSome = true → r.state = .starting ∨ r.state = .stopping)
    ∧ (r.runEnd.isSome = true → r.state = .running)
    ∧ (r.started = true → r.state = .running)

/-- Every record is in R45's ranges; the allowance of a configured pump lies within its starts per hour (R64); the
record of a pump that is not configured is in its RESETN condition (R44). -/
def PumpsSound (s : State) : Prop :=
  ∀ p, RecordSound (s.psu.pumps.at p)
    ∧ (∀ t, s.tables = some t → configured t p = true →
        (s.psu.pumps.at p).allowance ≤ (t.pumps.at p).startsPerHour)
    ∧ (configuredIn s.tables p = false → s.psu.pumps.at p = PumpRec.reset)

/-! ### Interlock Unit -/

/-- No two entries hold one pump or one raise sequence; every raise sequence has been given out; each entry carries the
kind of its cause; a pump that holds an entry has no stop-owed flag (R115, R122). -/
def StoreSound (s : State) : Prop :=
  (∀ e f o q, storeOrder (s.ilu.store.at e) = some o → storeOrder (s.ilu.store.at f) = some q →
      o.pump = q.pump ∨ o.seq = q.seq → e = f)
    ∧ ∀ e o, storeOrder (s.ilu.store.at e) = some o →
        o.seq < s.ilu.nextSeq ∧ o.kind = kindOf o.cause ∧ stopOwed s o.pump = false

/-- A judgement withdraws the stop of such a pump: STOPPED, STOP_SENT, STOPPING, or in LOCKOUT reported not running
(R92). -/
def FoundStopped (s : State) (p : Fin 32) : Prop :=
  let st := (s.psu.pumps.at p).state
  st = .stopped ∨ st = .stopSent ∨ st = .stopping ∨ (st = .lockout ∧ s.rsu.runningBits.at p = false)

/-! ### Order Book -/

/-- No pump ever has more than two host orders in WAITING state (R36). -/
def QueuesSound (s : State) : Prop := ∀ p, waitingCount s p ≤ 2

/-! ### Bus Passage Unit, loader and scheduler -/

/-- A master's cycle is in flight on the memory port. -/
def masterOnPort (s : State) : Bool := s.bpu.memPort.any fun m => m.owner == .master

/-- The upstream cycle in progress stands at a stage that `p` accepts. -/
def upstreamAt (p : UpStage → Bool) (s : State) : Bool := s.bpu.upstream.any fun u => p u.stage

def isHeld : UpStage → Bool
  | .held => true
  | .waiting _ => false
  | .inFlight _ => false

def isWaiting : UpStage → Bool
  | .waiting _ => true
  | .held => false
  | .inFlight _ => false

def isInFlight : UpStage → Bool
  | .inFlight _ => true
  | .held => false
  | .waiting _ => false

/-- While RESETN is asserted nothing is in progress and no tables are in force (R159). -/
def ResetHeld (s : State) : Prop :=
  s.bpu.resetn = true →
    s.csu.sched = .loading ∧ s.iml.kind = .none ∧ s.bpu.memPort = none ∧ s.bpu.upstream = none

/-- The scheduler state says which load is in progress and whether tables are in force (10.1, R168, R180). That the
origin state is absent in IDLE after a reload is log 30. -/
def SchedulerSound (s : State) : Prop :=
  (s.csu.sched = .loading ↔ s.bpu.resetn = true ∨ s.iml.kind = .powerOn)
    ∧ (s.csu.sched = .reloading ↔ s.iml.kind = .reload)
    ∧ (s.iml.kind = .none ↔ s.iml.phase = .idle)
    ∧ (s.iml.phase = .complete → s.iml.kind = .reload ∧ s.bpu.indexStall = true
        ∧ s.iml.indexSubmit.isSome = true ∧ s.iml.indexTake.isSome = true)
    ∧ (s.iml.origin.isSome = true ↔ s.iml.kind = .reload)
    ∧ (s.tables.isSome = true ↔ s.csu.sched = .hold ∨ s.csu.sched = .run ∨ s.iml.origin = some .hold)

/-- A cycle is held exactly by a stall, and none is decoded during one (R159, R160); the index stall belongs to the
INDEX and COMPLETE phases of a reload. -/
def StallSound (s : State) : Prop :=
  (stalled s = true → s.bpu.upstream = none ∨ upstreamAt isHeld s = true)
    ∧ (upstreamAt isHeld s = true → stalled s = true)
    ∧ (s.bpu.indexStall = true → s.iml.kind = .reload ∧ (s.iml.phase = .index ∨ s.iml.phase = .complete))

/-- The port carries one cycle, of the master whose cycle is in flight or of a load that reads (R148, R162); and it is
not left free while a request waits for it (R161). -/
def PortSound (s : State) : Prop :=
  (masterOnPort s = true ↔ upstreamAt isInFlight s = true)
    ∧ (loaderInFlight s = true → (loaderAddr s).isSome = true)
    ∧ (s.bpu.memPort = none → upstreamAt isWaiting s = false ∧ loaderAddr s = none)

def BusSound (s : State) : Prop := ResetHeld s ∧ SchedulerSound s ∧ StallSound s ∧ PortSound s

/-! ### Ring Tracker -/

/-- The value a snooped write to an index word carries, from its decode to its acknowledge. -/
def snoopedValue (target : SnoopTarget) (s : State) : Option Word :=
  match s.bpu.upstream with
  | some u =>
    match u.stage with
    | .waiting o => if o = .snoop target then some u.cycle.data else none
    | .inFlight o => if o = .snoop target then some u.cycle.data else none
    | .held => none
  | none => none

/-- The order of an origin stands in RELEASED state in its store. -/
def OriginReleased (s : State) : Origin → Prop
  | .host k => (s.ob.at k).state = .released
  | .internal e => ∃ o g, s.ilu.store.at e = .released o g

/-- The store of the entry's origin holds its order RELEASED, for pump p, with the entry's grant time; the slot of a host
order is a slot of the ring (R12, R13). -/
def HoldsReleased (t : Tables) (s : State) (x : Released) (p : Fin 32) : Prop :=
  match x.origin with
  | .host k => k.val < t.map.ringSize.slots ∧ (s.ob.at k).state = .released ∧ (s.ob.at k).grant = some x.grant
      ∧ ∃ o, (s.ob.at k).order = some o ∧ o.pump = p
  | .internal e => ∃ o, s.ilu.store.at e = .released o x.grant ∧ o.pump = p

/-- The release list holds one entry for each position in [take, release), at most N; each names an order RELEASED in its
store with the same grant time, and each RELEASED order, host or internal, holds exactly one position (R12, R13). The
main group of a RELEASED order is ARMED with that order's house and position: no group has two RELEASED orders, and a
group in QUIET or GUARD has none (R68). A take write that was legal at its decode is legal still (R8). With no tables in
force all four indexes are 0 and no order is RELEASED (R3). -/
def ReleaseListSound (s : State) : Prop :=
  match s.tables with
  | none => s.rt = Rt.reset ∧ ∀ a, ¬ OriginReleased s a
  | some t =>
    let origins := s.rt.list.map fun x => x.origin
    dist s.rt.take s.rt.release ≤ t.map.ringSize.slots ∧ s.rt.list.length = dist s.rt.take s.rt.release
      ∧ origins.Nodup ∧ (∀ a, OriginReleased s a ↔ a ∈ origins)
      ∧ (∀ d x, s.rt.list[d]? = some x →
          ∃ p, HoldsReleased t s x p
            ∧ s.psu.groups.at (t.houses.at (t.pumps.at p).house).group =
                .armed (t.pumps.at p).house (indexAfter s.rt.take d))
      ∧ ∀ v, snoopedValue .takeWord s = some v → legalTake s v = true

/-- The distance from reclaim to submit never exceeds N, and a ring slot is FREE exactly when its submission index lies
outside [reclaim, submit); reclaim stands at an unfinished order or at submit (R11); a submit write that was legal at
its decode is legal still (R5). With no tables in force every entry is in its RESETN condition (R21). -/
def SlotsSound (s : State) : Prop :=
  match s.tables with
  | none => s.ob = Tab.all Entry.reset
  | some t =>
    dist s.rt.reclaim s.rt.submit ≤ t.map.ringSize.slots
      ∧ (∀ d, d < t.map.ringSize.slots →
          ((s.ob.at (slotOf t.map.ringSize (indexAfter s.rt.reclaim d))).state = .free
            ↔ dist s.rt.reclaim s.rt.submit ≤ d))
      ∧ (s.rt.reclaim ≠ s.rt.submit → finished (s.ob.at (slotOf t.map.ringSize s.rt.reclaim)).state = false)
      ∧ ∀ v, snoopedValue .submitWord s = some v → legalSubmit t s v = true

/-! ### When a command reaches its own effect -/

/-- A cycle presented now is decoded at once: RESETN is not asserted, no cycle is in progress, no stall is in force. -/
def Accepting (s : State) : Prop := s.bpu.resetn = false ∧ s.bpu.upstream = none ∧ stalled s = false

/-- A master's cycle with this outcome is in flight on the memory port. -/
def InFlight (s : State) (u : UpCycle) (o : MemOutcome) : Prop :=
  s.bpu.upstream = some u ∧ u.stage = .inFlight o ∧ ∃ m, s.bpu.memPort = some m ∧ m.owner = .master

/-- A full-width snooped write with this target is in flight on the memory port. -/
def SnoopInFlight (s : State) (u : UpCycle) (target : SnoopTarget) : Prop :=
  InFlight s u (.snoop target) ∧ u.cycle.write = true

/-- A read of the loader is in flight on the memory port; a master's cycle may wait for it or be held. -/
def LoaderReads (s : State) : Prop := ∃ m, s.bpu.memPort = some m ∧ m.owner = .loader

/-- No master's cycle waits for the port. -/
def NoMasterWaits (s : State) : Prop := ∀ u o, s.bpu.upstream = some u → u.stage ≠ .waiting o

/-- A command may be accepted: no long command is in flight (R182). -/
def CommandFree (s : State) : Prop := Accepting s ∧ s.csu.sweep.kind = .none

/-- No host order WAITING or RELEASED, the internal store empty, all eight groups QUIET (R174). -/
def Quiet (s : State) : Prop :=
  (∀ k, (s.ob.at k).state ≠ .waiting ∧ (s.ob.at k).state ≠ .released) ∧ (∀ e, s.ilu.store.at e = .free)
    ∧ ∀ g, s.psu.groups.at g = .quiet

/-- The address lies outside the windows of the station region that the part decodes (R164). -/
def OutsideStation (s : State) (a : Addr) : Prop := a.toNat < regionBase s ∨ regionBase s + 3648 ≤ a.toNat

/-- The address is word w of ring slot k, outside the station region (R1, R171). -/
def RingWord (t : Tables) (s : State) (a : Addr) (k : Fin 64) (w : Nat) : Prop :=
  a.toNat = t.map.ringBase.toNat + 8 * k.val + w ∧ k.val < t.map.ringSize.slots ∧ w < 8 ∧ OutsideStation s a

/-- The address is the submit word, outside the ring and the station region (R171). -/
def SubmitWord (t : Tables) (s : State) (a : Addr) : Prop :=
  a = t.map.submitAddr ∧ OutsideStation s a
    ∧ (a.toNat < t.map.ringBase.toNat ∨ t.map.ringBase.toNat + 8 * t.map.ringSize.slots ≤ a.toNat)

/-- The address is the take word, outside the ring, the submit word and the station region (R171). -/
def TakeWord (t : Tables) (s : State) (a : Addr) : Prop :=
  a = t.map.takeAddr ∧ OutsideStation s a ∧ a ≠ t.map.submitAddr
    ∧ (a.toNat < t.map.ringBase.toNat ∨ t.map.ringBase.toNat + 8 * t.map.ringSize.slots ≤ a.toNat)

/-- The address is word w of house h's report record, outside every window before it (R97, R171). -/
def ReportAreaWord (t : Tables) (s : State) (a : Addr) (h : Fin 12) (w : Nat) : Prop :=
  a.toNat = t.map.reportBase.toNat + 8 * h.val + w ∧ h.val < t.map.houseCount.val ∧ w < 8 ∧ OutsideStation s a
    ∧ (a.toNat < t.map.ringBase.toNat ∨ t.map.ringBase.toNat + 8 * t.map.ringSize.slots ≤ a.toNat)
    ∧ a ≠ t.map.submitAddr ∧ a ≠ t.map.takeAddr

/-- The address lies in no window of the map (R150). -/
def Unmapped (t : Tables) (a : Addr) : Prop :=
  (a.toNat < t.map.ringBase.toNat ∨ t.map.ringBase.toNat + 8 * t.map.ringSize.slots ≤ a.toNat)
    ∧ a ≠ t.map.submitAddr ∧ a ≠ t.map.takeAddr
    ∧ (a.toNat < t.map.reportBase.toNat ∨ t.map.reportBase.toNat + 8 * t.map.houseCount.val ≤ a.toNat)

/-- The address lies in the image area, station region words 0 to 3583 (R164). -/
def ImageAreaWord (s : State) (a : Addr) : Prop := regionBase s ≤ a.toNat ∧ a.toNat < regionBase s + 3584

/-- The address is status block word w, station region word 3584 + w (R164). -/
def StatusBlockWord (s : State) (a : Addr) (w : Nat) : Prop := a.toNat = regionBase s + 3584 + w ∧ w < 64

/-! ### How a presented cycle is carried out (R151) -/

/-- The cycle is ended at its decode with the answered word, and nothing else changes. -/
def Answered (c : Cycle) (s : State) (v : Word) : Prop :=
  exec (.passedCycle c) s = .next (s.setBpu { s.bpu with ending := .ack (some v) })

/-- The cycle is handed to the arbiter with its outcome, and nothing else changes. -/
def HandedToArbiter (c : Cycle) (s : State) (o : MemOutcome) : Prop :=
  exec (.passedCycle c) s = .next (grant (s.setBpu { s.bpu with
    upstream := some { cycle := c, stage := .waiting o, abandoned := false }
    ending := .idle }))

/-! ### The staged image (9.2, R166, R167, 11.7)

`w k` is image word k; P, H, R and F are the counts in words 10 to 13. -/

/-- The length the four counts give (9.2). -/
def countedWords (w : Nat → Nat) : Nat := 32 + 8 * w 10 + 8 * w 11 + 4 * w 12 + 2 * w 13 + 96

/-- Every field of the header and of the five tables lies in its range; what refers to another entry is R172's. -/
def ImageInRange (w : Nat → Nat) : Prop :=
  let P := w 10
  let H := w 11
  let R := w 12
  let F := w 13
  w 9 % 16 ≤ 3 ∧ (1 ≤ P ∧ P ≤ 32) ∧ (1 ≤ H ∧ H ≤ 12) ∧ (1 ≤ R ∧ R ≤ 16) ∧ (1 ≤ F ∧ F ≤ 4)
    ∧ (60 ≤ w 14 ∧ w 14 ≤ 7200) ∧ (4 ≤ w 15 ∧ w 15 ≤ 255)
    ∧ (∀ k, k < P →
        let x (i : Nat) : Nat := w (32 + 8 * k + i)
        x 1 ≤ 3 ∧ x 4 ≤ 14400 ∧ x 5 ≤ 14400 ∧ (1 ≤ x 6 ∧ x 6 ≤ 15) ∧ (10 ≤ x 7 ∧ x 7 ≤ 600))
    ∧ (∀ k, k < H →
        let x (i : Nat) : Nat := w (32 + 8 * P + 8 * k + i)
        x 2 ≤ 7 ∧ (5 ≤ x 3 ∧ x 3 ≤ 600) ∧ (20 ≤ x 4 ∧ x 4 ≤ 3600))
    ∧ (∀ k, k < R →
        let x (i : Nat) : Nat := w (32 + 8 * P + 8 * H + 4 * k + i)
        x 0 ≤ 1 ∧ x 1 ≤ 9999 ∧ x 2 ≤ 9999 ∧ x 3 ≤ 9999)
    ∧ (∀ k, k < F →
        let x : Nat := w (32 + 8 * P + 8 * H + 4 * R + 2 * k)
        1 ≤ x ∧ x ≤ 4095)
    ∧ ∀ k, k < 48 → w (32 + 8 * P + 8 * H + 4 * R + 2 * F + 2 * k) ≤ 7

/-- The address field at words k and k + 1 (11.7). -/
def imageAddress (w : Nat → Nat) (k : Nat) : Nat := w k + w (k + 1) % 16 * 65536

/-- The five windows of R171: each ends within the address space, no two share an address, and the ring base is a
multiple of 8. -/
def ImagePlaced (base : Nat) (w : Nat → Nat) : Prop :=
  let windows : List (Nat × Nat) :=
    [(base, 4096), (imageAddress w 1, 8 * (8 * 2 ^ (w 9 % 16))), (imageAddress w 3, 1), (imageAddress w 5, 1),
     (imageAddress w 7, 8 * w 11)]
  imageAddress w 1 % 8 = 0 ∧ (∀ a, a ∈ windows → a.1 + a.2 ≤ 1048576)
    ∧ windows.Pairwise fun a b => a.1 + a.2 ≤ b.1 ∨ b.1 + b.2 ≤ a.1

/-- The tables agree with one another (R172). -/
def ImageAgrees (w : Nat → Nat) : Prop :=
  let P := w 10
  let H := w 11
  let R := w 12
  (∀ k, k < P → w (32 + 8 * k) < H ∧ w (32 + 8 * k + 2) < w 13)
    ∧ (∀ k, k < H → w (32 + 8 * P + 8 * k) < R ∧ w (32 + 8 * P + 8 * k + 1) < R)
    ∧ (∀ k, k < P → ∀ j, j < k → ¬ (w (32 + 8 * j) = w (32 + 8 * k) ∧ w (32 + 8 * j + 1) = w (32 + 8 * k + 1)))
    ∧ ∀ k, k < R →
        let x (i : Nat) : Nat := w (32 + 8 * P + 8 * H + 4 * k + i)
        x 0 = 0 → x 1 < x 2 ∧ x 2 < x 3

/-! ### The parts of a next state that many commands share -/

/-- The upstream cycle ended with UACK and no data, and nothing else changed. -/
def acknowledged (s : State) : State := s.setBpu { s.bpu with ending := .ack none }

/-- The flags with one more raised. -/
def flagsWith (s : State) (f : EventFlag) : BitVec 15 := s.csu.flags ||| flagMask f

/-- The capture record after a master cycle's fault: filled only when the three fault flags are clear (R157). -/
def captureAfter (s : State) (x : Capture) : Capture := if faultFlagsClear s then x else s.bpu.capture

/-- The loader's full-width fetch read at an address (R162). -/
def fetchAt (s : State) (a : Addr) : Option MemCycle :=
  some { owner := .loader, addr := a, write := false, lanes := 3, data := 0, timeout := s.bpu.timeout }

/-- The cycle refused (R156): UERR, the flag that names the fault, the capture record as R157 judges it, and nothing
else. -/
def refusedState (c : Cycle) (kind : FaultKind) (f : EventFlag) (cause : FaultCause) (s : State) : State :=
  (s.setBpu { s.bpu with
    ending := .err
    capture := captureAfter s { kind, addr := c.addr, init := c.init, cause } }).setCsu
    { s.csu with flags := flagsWith s f }

/-- The loader IDLE with the reason of the load that ended (R168); its origin state, running sum and next fetch address
are log 30. -/
def idleLoader (reason : ImageReason) : Iml :=
  { kind := .none, phase := .idle, origin := none, nextFetch := 0, sum := 0, staging := [], indexSubmit := none,
    indexTake := none, reason }

/-- A load failed (R173, R178): the loader IDLE with the reason (log 30), IMAGE_REJECTED, a reload REJECTED in its
origin state and a power-on load in UNLOADED; the stall over, the held cycle decoded and the free port granted. -/
def loadFailed (reason : ImageReason) (s : State) : State :=
  grant (endStall (((s.setBpu { s.bpu with memPort := none, indexStall := false }).setIml (idleLoader reason)).setCsu
    { s.csu with
      sched := if s.iml.kind = .reload ∧ s.iml.origin = some .hold then .hold else .unloaded
      status := if s.iml.kind = .reload then { code := 3, outcome := .rejected, reason := .none } else s.csu.status
      flags := flagsWith s .imageRejected }))

/-- A stop raised for pump p in entry e, its stop-owed flag cleared (R115, R122): a TIMED_STOP, or a TRIP_STOP with
TRIP. -/
def stopRaised (e : Fin 8) (p : Fin 32) (cause : Cause) (s : State) : State :=
  let kind : StopKind := if cause = .timed then .timedStop else .tripStop
  (s.setIlu
    { store := s.ilu.store.put e (.waiting { pump := p, kind, cause, raised := s.cbu.now, seq := s.ilu.nextSeq }),
      nextSeq := s.ilu.nextSeq + 1, owed := s.ilu.owed.put p none }).setCsu
    { s.csu with flags := if cause = .timed then s.csu.flags else flagsWith s .trip }

/-- The stop-owed flag of pump p, of cause c, taken in with entry e FREE (R123): a TIMED_STOP for TIMED; for a trip cause
a TRIP_STOP with the cause now found, or, where no condition holds, the flag cleared. -/
def flagTakenIn (t : Tables) (e : Fin 8) (p : Fin 32) (c : Cause) (s : State) : State :=
  match (if c = .timed then some .timed else tripCause t s p) with
  | some d => stopRaised e p d s
  | none => s.setIlu { s.ilu with owed := s.ilu.owed.put p none }

/-- Entry e is the lowest-numbered FREE entry of the store (R115). -/
def LowestFree (s : State) (e : Fin 8) : Prop := s.ilu.store.at e = .free ∧ ∀ f, f < e → s.ilu.store.at f ≠ .free

/-- The state with a command refused: nothing changes beyond the command word and the command status (R182). -/
def refusedCommand (code : Word) (reason : CommandReason) (s : State) : State :=
  (acknowledged s).setCsu { s.csu with
    commandWord := code
    status := { code, outcome := .refused, reason } }

/-- Checks 2 and 3 of R182 on a command with this code: in a scheduler state that does not accept it, it is refused
BAD_STATE, a sweep in flight or not; in one that does, it is refused BUSY while a sweep is in flight. -/
def TurnedAway (c : Instr) (code : Word) (acceptedIn : Sched → Prop) (s : State) : Prop :=
  (¬ acceptedIn s.csu.sched → exec c s = .next (refusedCommand code .badState s))
    ∧ (acceptedIn s.csu.sched → s.csu.sweep.kind ≠ .none → exec c s = .next (refusedCommand code .busy s))

/-- Slot k admitted, from y to z (R34): WAITING with the parsed order, or REFUSED with the reason of the first check that
fails, and ORDER_REFUSED. -/
def IndexAdmitted (t : Tables) (k : Fin 64) (y z : State) : Prop :=
  let e := y.ob.at k
  (∀ o, admission t y e = .ok o →
      z = y.setOb (y.ob.put k { e with state := .waiting, reason := .pending, order := some o, grant := none,
                                       mark := false, late := false }))
    ∧ ∀ r, admission t y e = .error r →
        z = (y.setOb (y.ob.put k { e with state := .refused, reason := r })).setCsu
          { y.csu with flags := flagsWith y .orderRefused }

/-- What the PSU makes of a notice for pump p at a position (R19). A START_SENT pump of a START becomes STARTING (R50), a
STOP_SENT pump of a STOP becomes STOPPING and loses its stop-owed flag (R51, R122), each with its confirm expiry set; a
pump in any other state stands. A group ARMED with this position becomes GUARD from now for the armed house's surge
guard, any other stands (R70). -/
def pumpNotified (t : Tables) (position : Word) (p : Fin 32) (action : Action) (y : State) : State :=
  let timer (d : Nat) : Timer := { expiry := (y.cbu.now + d) % 4294944000, due := false }
  let r := y.psu.pumps.at p
  let g := (t.houses.at (t.pumps.at p).house).group
  let confirm := some (timer (t.pumps.at p).confirmTimeout)
  (y.setPsu
    { pumps := y.psu.pumps.put p
        (if action = .start ∧ r.state = .startSent then { r with state := .starting, confirm }
          else if action = .stop ∧ r.state = .stopSent then { r with state := .stopping, confirm } else r)
      groups :=
        match y.psu.groups.at g with
        | .armed h at0 =>
          if at0 = position then y.psu.groups.put g (.guard h at0 (timer (t.houses.at h).surgeGuard))
          else y.psu.groups
        | .quiet => y.psu.groups
        | .guard _ _ _ => y.psu.groups }).setIlu
    { y.ilu with owed := if action = .stop ∧ r.state = .stopSent then y.ilu.owed.put p none else y.ilu.owed }

/-- The notice of one position handled whole, from y to z (R19). A RELEASED host entry becomes DISPATCHED (R39); a RELEASED
internal entry is freed, with its take-in (R127). Then the PSU takes the pump and its group; then a START's pump has its
stop-owed flag taken in where an entry is FREE (R124), and a pump in LOCKOUT is evaluated (R120). -/
def NoticeHandled (t : Tables) (position : Word) (origin : Origin) (y z : State) : Prop :=
  let evaluated (w : State) (p : Fin 32) : State :=
    if (y.psu.pumps.at p).state = .lockout then evaluatePump t p w else w
  match origin with
  | .host k =>
    let e := y.ob.at k
    ∀ o, e.state = .released → e.order = some o →
      let w := pumpNotified t position o.pump o.action
        (y.setOb (y.ob.put k { e with state := .dispatched, reason := .none }))
      (o.action = .stop → z = evaluated w o.pump)
      ∧ (o.action = .start →
          (y.ilu.owed.at o.pump = none ∨ (∀ f, y.ilu.store.at f ≠ .free) → z = evaluated w o.pump)
          ∧ ∀ c f, y.ilu.owed.at o.pump = some c → LowestFree y f →
              z = evaluated ((flagTakenIn t f o.pump c w).setRa { requests := y.ra.requests + 1 }) o.pump)
  | .internal e => ∀ o gr, y.ilu.store.at e = .released o gr →
      z = evaluated (pumpNotified t position o.pump .stop
        (takeIn t (y.setIlu { y.ilu with store := y.ilu.store.put e .free }))) o.pump

end Sys2Proof.Safety
end

