-- ==== Sys2Proof/Certificates/Slice0/Obligations.lean ====
section
/-! DEFINITION. The statements for the provers, in the order of OBLIGATIONS.json. Where a statement rests on a choice of
the model, its docstring names the log entry. -/

section

open Sys2Proof Sys2Proof.Machine Sys2Proof.Safety

/-! ### The step and reset -/

/-- A step takes the command at the front of the queue and carries it out with the queue's rest (log 3). -/
def Obligations.StepTakesFront : Prop :=
  ∀ (c : Instr) (rest : List Instr) (s : State), step (s.setPending (c :: rest)) = exec c (s.setPending rest)

/-- On an empty queue one rising edge of TREF passes, as R132 counts it; that the edge is the empty queue's step is the
model's choice (log 4). -/
def Obligations.EmptyQueueIsOneTrefEdge : Prop :=
  ∀ s : State, s.pending = [] →
    (s.cbu.clockSet = false → step s = .next s)
    ∧ (s.cbu.clockSet = true → s.cbu.divider + 1 < 32768 →
        step s = .next (s.setCbu { s.cbu with divider := s.cbu.divider + 1 }))
    ∧ (s.cbu.clockSet = true → s.cbu.divider = 32767 → step s = exec .secondBoundary s)

/-- Every command answers a next state, in every state, and leaves the queue as it finds it. That a command whose
condition does not hold is no event and still answers a next state, and the queue itself, are the model's choice
(log 3). -/
def Obligations.EveryCommandAnswersNext : Prop :=
  ∀ (c : Instr) (s : State), ∃ t, exec c s = .next t ∧ t.pending = s.pending

/-- RESETN_ASSERT brings the part to its RESETN condition from every state (R159); that the queue stands
is log 15, that the cycles in progress are forgotten is log 11, and the values of IMGSEL, of the sweep's key
and indexes and of the ending last driven in that condition are log 2. At the release IMGSEL is sampled (R164) and the
power-on load begins with a fetch read of image area word 0 under the 64 microsecond timeout (R173, R168, R158). A
release with RESETN not asserted is no event (log 3). -/
def Obligations.ResetnAssertAndRelease : Prop :=
  (∀ s : State, exec .resetnAssert s = .next (State.reset.setPending s.pending))
  ∧
  (∀ (v : BitVec 4) (s : State),
      (s.bpu = State.reset.bpu → s.iml = State.reset.iml →
        exec (.resetnRelease v) s = .next ((s.setBpu { s.bpu with
            resetn := false
            imgsel := v
            memPort := fetchAt s (BitVec.ofNat 20 (v.toNat * 65536))
            lastGrant := .loader }).setIml { s.iml with kind := .powerOn, phase := .header }))
      ∧ (s.bpu.resetn = false → exec (.resetnRelease v) s = .next s))

/-- The values the chapters give for RESETN, block by block; that load kind none and phase IDLE stand while RESETN is
asserted is the model's choice (log 1), since R168 gives POWER_ON and HEADER from the release. -/
def Obligations.ResetValues : Prop :=
  let s := State.reset
  (s.bpu.timeout = 64 ∧ s.bpu.capture = { kind := .none, addr := 0, init := .host, cause := .none }
      ∧ s.bpu.lastGrant = .loader ∧ s.bpu.memPort = none ∧ s.bpu.upstream = none ∧ s.bpu.indexStall = false)
  ∧ s.tables = none
  ∧ (s.rt.submit = 0 ∧ s.rt.reclaim = 0 ∧ s.rt.release = 0 ∧ s.rt.take = 0 ∧ s.rt.list = [])
  ∧ (∀ k, (s.ob.at k).state = .free ∧ (∀ w, (s.ob.at k).words.at w = none) ∧ (s.ob.at k).order = none
      ∧ (s.ob.at k).reason = .none ∧ (s.ob.at k).grant = none ∧ (s.ob.at k).mark = false ∧ (s.ob.at k).late = false)
  ∧ s.ra.requests = 0
  ∧ (∀ p, s.psu.pumps.at p =
      { state := .unknown, lock := .none, allowance := 0, confirm := none, minRun := none, rest := none,
        orderedRun := none, runEnd := none, started := false })
  ∧ (∀ g, s.psu.groups.at g = .quiet)
  ∧ (∀ h, (s.rsu.houses.at h).freshness = .never ∧ (s.rsu.houses.at h).localControl = false
      ∧ (s.rsu.houses.at h).lastSequence = none ∧ (s.rsu.houses.at h).buffer.clockSeen = false
      ∧ ∀ w, (s.rsu.houses.at h).buffer.words.at w = none)
  ∧ (∀ r, s.rsu.levels.at r = none) ∧ (∀ p, s.rsu.runningBits.at p = false ∧ s.rsu.faultBits.at p = false)
  ∧ s.rsu.duplicates = 0 ∧ s.rsu.incompletes = 0
  ∧ (∀ e, s.ilu.store.at e = .free) ∧ s.ilu.nextSeq = 0 ∧ (∀ p, s.ilu.owed.at p = none)
  ∧ s.cbu = { clockSet := false, now := 0, divider := 0, band := 0, tally := 0, capReached := false }
  ∧ (s.iml.kind = .none ∧ s.iml.phase = .idle ∧ s.iml.origin = none ∧ s.iml.nextFetch = 0 ∧ s.iml.sum = 0
      ∧ s.iml.staging = [] ∧ s.iml.indexSubmit = none ∧ s.iml.indexTake = none ∧ s.iml.reason = .none)
  ∧ (s.csu.sched = .loading ∧ s.csu.commandWord = 0 ∧ (∀ n, s.csu.arguments.at n = 0)
      ∧ s.csu.status = { code := 0, outcome := .done, reason := .none } ∧ s.csu.sweep.kind = .none
      ∧ s.csu.flags = 0 ∧ (∀ i, i < 15 → s.csu.enables.getLsbD i = true) ∧ s.csu.missed = 0)
  ∧ alert s = false

/-! ### Time -/

/-- The CBU's own effects at a second boundary, in R135's order: now, the minute's addition and the cap's judgement, then
the band. The minute's sum counts the running units of the configured pumps that are RUNNING, STOP_SENT or STOPPING, or
in LOCKOUT reported running (R136); the cap is that of the band the boundary finds, an ending band's own (R137, R144).
That the tally is held at 16,777,215 is log 19, that the row takes the divider to 0 from any value log 5. -/
def Obligations.SecondBoundaryAdvancesClock : Prop :=
  ∀ s : State, s.cbu.clockSet = true →
    let now := (s.cbu.now + 1) % 4294944000
    let tod := now % 86400
    let counts (t : Tables) (p : Fin 32) : Prop :=
      let st := (s.psu.pumps.at p).state
      p.val < t.pumpCount.val
        ∧ (st = .running ∨ st = .stopSent ∨ st = .stopping ∨ (st = .lockout ∧ s.rsu.runningBits.at p = true))
    let sum : Nat :=
      match s.tables with
      | some t => ∑ p : Fin 32, if counts t p then (t.pumps.at p).runningUnits else 0
      | none => 0
    let cap : Nat :=
      match s.tables with
      | some t => (t.bands.at s.cbu.band).cap
      | none => 0
    let tally := if tod % 60 = 0 then min (s.cbu.tally + sum) 16777215 else s.cbu.tally
    let hit := tod % 60 = 0 ∧ cap ≠ 0 ∧ cap * 16 ≤ tally
    ∃ t, exec .secondBoundary s = .next t
      ∧ t.cbu.clockSet = true ∧ t.cbu.now = now ∧ t.cbu.divider = 0
      ∧ (tod % 1800 = 0 → t.cbu.band.val = tod / 1800 ∧ t.cbu.tally = 0 ∧ t.cbu.capReached = false)
      ∧ (tod % 1800 ≠ 0 → t.cbu.band = s.cbu.band ∧ t.cbu.tally = tally
          ∧ (t.cbu.capReached = true ↔ s.cbu.capReached = true ∨ hit))
      ∧ (hit ∧ s.cbu.capReached = false → t.csu.flags = flagsWith s .energyCap)
      ∧ (¬ (hit ∧ s.cbu.capReached = false) → t.csu = s.csu)

/-- What a second boundary hands on: the allowances at an hour (R138), the judgement of every timer against the new now
(R60, R109), one pass requested (R135); and nothing else. A timer is found reached when the offset of its expiry from now
is 0 or below, the offset being the value in −2,147,472,000 to 2,147,471,999 congruent to the difference (R60, R140).
That an expiry found reached is kept as a due mark until its event is taken is log 12. -/
def Obligations.SecondBoundaryHandedOn : Prop :=
  (∀ s : State, s.cbu.clockSet = true →
    ∃ t, exec .secondBoundary s = .next t
      ∧ (∀ p, t.psu.pumps.at p = { s.psu.pumps.at p with
          allowance :=
            match s.tables with
            | some tb => if t.cbu.now % 3600 = 0 ∧ configured tb p = true then (tb.pumps.at p).startsPerHour
                else (s.psu.pumps.at p).allowance
            | none => (s.psu.pumps.at p).allowance
          confirm := (s.psu.pumps.at p).confirm.map (judgeTimer t.cbu.now)
          runEnd := (s.psu.pumps.at p).runEnd.map (judgeTimer t.cbu.now) })
      ∧ (∀ g h i x, s.psu.groups.at g = .guard h i x → t.psu.groups.at g = .guard h i (judgeTimer t.cbu.now x))
      ∧ (∀ g, (∀ h i x, s.psu.groups.at g ≠ .guard h i x) → t.psu.groups.at g = s.psu.groups.at g)
      ∧ (∀ h x, (s.rsu.houses.at h).freshness = .fresh x →
          t.rsu.houses.at h = { s.rsu.houses.at h with freshness := .fresh (judgeTimer t.cbu.now x) })
      ∧ (∀ h, (∀ x, (s.rsu.houses.at h).freshness ≠ .fresh x) → t.rsu.houses.at h = s.rsu.houses.at h)
      ∧ t.rsu.levels = s.rsu.levels ∧ t.rsu.runningBits = s.rsu.runningBits ∧ t.rsu.faultBits = s.rsu.faultBits
      ∧ t.rsu.duplicates = s.rsu.duplicates ∧ t.rsu.incompletes = s.rsu.incompletes
      ∧ t.ra.requests = s.ra.requests + 1
      ∧ t.bpu = s.bpu ∧ t.tables = s.tables ∧ t.rt = s.rt ∧ t.ob = s.ob ∧ t.ilu = s.ilu ∧ t.iml = s.iml)
  ∧ (∀ (now : Epoch) (x : Timer),
      judgeTimer now x = { expiry := x.expiry, due := x.due || decide (epochOffset x.expiry now ≤ 0) })
  ∧ ∀ x now : Epoch,
      -2147472000 ≤ epochOffset x now ∧ epochOffset x now ≤ 2147471999
      ∧ (4294944000 : Int) ∣ epochOffset x now - ((x : Int) - (now : Int))

/-- CONFIRM_EXPIRY of a pump whose confirm expiry a second boundary has found reached (R58). -/
def Obligations.ConfirmExpiryLocksOut : Prop :=
  ∀ (p : Fin 32) (s : State) (x : Timer),
    let r := s.psu.pumps.at p
    (r.state = .starting ∨ r.state = .stopping) → r.confirm = some x → x.due = true →
      exec (.confirmExpiry p) s = .next (((s.setPsu { s.psu with pumps := s.psu.pumps.put p { r with
          state := .lockout
          lock := if r.state = .starting then .noStartConfirm else .noStopConfirm
          confirm := none
          orderedRun := none
          runEnd := none } }).setCsu { s.csu with flags := flagsWith s .noConfirm }).setRa
            { requests := s.ra.requests + 1 })

/-- RUN_END of the lowest-numbered RUNNING pump whose run-end a second boundary has found reached: the run-end is
cleared, the Interlock Unit raises a TIMED_STOP, owes one, or raises nothing (R62, R121). That the pumps due are taken
lowest number first is R62's order, kept across boundaries by log 13. -/
def Obligations.RunEndHandsOverPump : Prop :=
  ∀ (p : Fin 32) (s : State) (x : Timer),
    let r := s.psu.pumps.at p
    let out := holdsEntry s p = true
    let kept := (s.setPsu { s.psu with pumps := s.psu.pumps.put p { r with runEnd := none } }).setRa
      { requests := s.ra.requests + 1 }
    r.state = .running → r.runEnd = some x → x.due = true → (∀ q, q < p → runEndDue (s.psu.pumps.at q) = false) →
      (out → exec (.runEnd p) s = .next kept)
      ∧ (¬ out → (∀ e, s.ilu.store.at e ≠ .free) →
          exec (.runEnd p) s = .next (kept.setIlu
            { s.ilu with owed := s.ilu.owed.put p (some ((s.ilu.owed.at p).getD .timed)) }))
      ∧ (∀ e, ¬ out → s.ilu.store.at e = .free → (∀ f, f < e → s.ilu.store.at f ≠ .free) →
          exec (.runEnd p) s = .next (kept.setIlu
            { store := s.ilu.store.put e (.waiting
                { pump := p, kind := .timedStop, cause := .timed, raised := s.cbu.now, seq := s.ilu.nextSeq }),
              nextSeq := s.ilu.nextSeq + 1, owed := s.ilu.owed.put p none }))

/-- GUARD_EXPIRY of a group whose guard expiry a second boundary has found reached (R71), and STALE_EXPIRY of a FRESH house
whose stale expiry one has found reached: the second requests no pass (R109). -/
def Obligations.GuardAndStaleExpiries : Prop :=
  (∀ (g : Fin 8) (s : State) (h : Fin 12) (i : Word) (x : Timer),
      s.psu.groups.at g = .guard h i x → x.due = true →
        exec (.guardExpiry g) s =
          .next ((s.setPsu { s.psu with groups := s.psu.groups.put g .quiet }).setRa { requests := s.ra.requests + 1 }))
  ∧
  (∀ (h : Fin 12) (s : State) (x : Timer),
      (s.rsu.houses.at h).freshness = .fresh x → x.due = true →
        exec (.staleExpiry h) s = .next ((s.setRsu { s.rsu with
            houses := s.rsu.houses.put h { s.rsu.houses.at h with freshness := .stale } }).setCsu
          { s.csu with flags := flagsWith s .houseStale }))

/-! ### The release pass -/

/-- RELEASE_PASS runs one pass for a request (R73, R74): every late order is expired with the reason it held (R75), the
entries of the release list stand and new ones follow them (R12), and no pass touches the bus, the plant image, the
clock, the scheduler state, submit or take. An internal entry that wins at the pass's beginning takes the first position
appended, with the grant time of now, and is RELEASED (R77, R94). With none winning, none to withdraw and nothing late,
the host order that wins takes it, and an order refused at evaluation is REFUSED with its verdict (R76, R91). With no
tables in force it changes nothing but the request's count. That the requests are held as a count,
and that RELEASE_PASS without one is no event, is log 21. -/
def Obligations.ReleasePassRuns : Prop :=
  ∀ s : State,
    (s.ra.requests = 0 → exec .releasePass s = .next s)
    ∧ ∀ n : Nat, s.ra.requests = n + 1 →
      (s.tables = none → exec .releasePass s = .next (s.setRa { requests := n }))
      ∧ (∀ t, s.tables = some t →
          ∃ u, exec .releasePass s = .next u
            ∧ (∀ k o, waitingOrder (s.ob.at k) = some o → isBelow o.latest s.cbu.now = true →
                u.ob.at k = { s.ob.at k with state := .expired, mark := false } ∨ u.ob.at k = Entry.reset)
            ∧ ((∃ k o, waitingOrder (s.ob.at k) = some o ∧ isBelow o.latest s.cbu.now = true) →
                flagSet u .orderExpired = true)
            ∧ (∃ more, u.rt.list = s.rt.list ++ more)
            ∧ (∀ e o, internalWinner t s.ilu.nextSeq s = some (e, o) →
                (∃ more, u.rt.list = s.rt.list ++ { origin := .internal e, grant := s.cbu.now } :: more)
                ∧ u.ilu.store.at e = .released o s.cbu.now)
            ∧ ((∀ k o, waitingOrder (s.ob.at k) = some o → isBelow o.latest s.cbu.now = false) →
                (∀ e o, s.ilu.store.at e = .waiting o → ¬ FoundStopped s o.pump) →
                internalWinner t s.ilu.nextSeq s = none →
                (∀ k o r, waitingOrder (s.ob.at k) = some o → judgeHost t s k o = .refuse r →
                  (u.ob.at k = { s.ob.at k with state := .refused, reason := r, mark := false } ∨ u.ob.at k = Entry.reset)
                  ∧ flagSet u .orderRefused = true)
                ∧ ((∃ k o, k.val < t.map.ringSize.slots ∧ waitingOrder (s.ob.at k) = some o
                    ∧ judgeHost t s k o = .eligible) →
                  ∃ k o, hostWinner t s = some (k, o))
                ∧ ∀ k o, hostWinner t s = some (k, o) →
                    (∃ more, u.rt.list = s.rt.list ++ { origin := .host k, grant := s.cbu.now } :: more)
                    ∧ u.ob.at k = { s.ob.at k with
                        state := .released
                        reason := .none
                        grant := some s.cbu.now
                        mark := false })
            ∧ n ≤ u.ra.requests ∧ u.rt.submit = s.rt.submit ∧ u.rt.take = s.rt.take
            ∧ u.csu = { s.csu with flags := u.csu.flags, missed := u.csu.missed }
            ∧ u.bpu = s.bpu ∧ u.tables = s.tables ∧ u.rsu = s.rsu ∧ u.cbu = s.cbu ∧ u.iml = s.iml)

/-- Outside RUN, with nothing to expire and no internal entry WAITING, a pass holds every WAITING host order HELD and
changes nothing else (R76, R78). -/
def Obligations.PassOutsideRunHoldsEveryOrder : Prop :=
  ∀ (s : State) (t : Tables) (n : Nat), s.ra.requests = n + 1 → s.tables = some t → s.csu.sched ≠ .run →
    (∀ k o, waitingOrder (s.ob.at k) = some o → isBelow o.latest s.cbu.now = false) →
    (∀ e o, s.ilu.store.at e ≠ .waiting o) →
      exec .releasePass s = .next ((s.setRa { requests := n }).setOb (Tab.ofFn fun k =>
        if (waitingOrder (s.ob.at k)).isSome then { s.ob.at k with reason := .held } else s.ob.at k))

/-- A round finds a host order eligible exactly when every check of 4.2 passes, sixteen for a START and ten for a STOP, and
holds it with the reason of the first check that fails (R78 to R90; the checks of the pump's state are
PumpStateDecidesVerdict's). The head of a pump's queue is its WAITING order nearest to reclaim (R79). -/
def Obligations.EligibleExactlyWhenEveryCheckPasses : Prop :=
  (∀ (t : Tables) (s : State) (k : Fin 64) (o : Order),
    let st := t.pumps.at o.pump
    let r := s.psu.pumps.at o.pump
    let house := t.houses.at st.house
    let now := s.cbu.now
    let found := judgeHost t s k o
    -- the checks by their number in 4.2; c5 of a START and c7 of a STOP are the pump's state
    let c1 := s.csu.sched = .run
    let c2 := c1 ∧ isHead t s k o.pump = true
    let c3 := c2 ∧ epochOffset o.earliest now ≤ 0
    let quietGroup := s.psu.groups.at house.group = .quiet
    let room := (s.rt.release - s.rt.take).toNat < t.map.ringSize.slots
    (¬ c1 → found = .hold .held)
    ∧ (c1 ∧ ¬ c2 → found = .hold .queue)
    ∧ (c2 ∧ ¬ c3 → found = .hold .notYet)
    ∧ (o.action = .start →
      let c5 := c3 ∧ r.state = .stopped
      let c6 := c5 ∧ ∀ x, r.rest = some x → epochOffset x now ≤ 0
      let c7 := c6 ∧ 1 ≤ r.allowance
      let c8 := c7 ∧ ∃ x, (s.rsu.houses.at st.house).freshness = .fresh x
      let c9 := c8 ∧ (s.rsu.houses.at st.house).localControl = false
      let c10 := c9 ∧ quietGroup
      let c11 := c10 ∧ holdsEntry s o.pump = false ∧ s.ilu.owed.at o.pump = none
      let c12 := c11 ∧ committedLoad t s st.feeder + st.startingUnits ≤ t.limits.at st.feeder
      let c13 := c12
        ∧ ((t.reservoirs.at house.suction).fixed = true ∨
            ∃ l, s.rsu.levels.at house.suction = some l ∧ (t.reservoirs.at house.suction).lowSuction ≤ l)
        ∧ ((t.reservoirs.at house.delivery).fixed = true ∨
            ∃ l, s.rsu.levels.at house.delivery = some l ∧ l < (t.reservoirs.at house.delivery).high)
      let c14 := c13 ∧ (t.bands.at s.cbu.band).floor ≤ o.priority
      let c15 := c14 ∧ (s.cbu.capReached = false ∨ 6 ≤ o.priority)
      (c5 ∧ ¬ c6 → found = .hold .rest)
      ∧ (c6 ∧ ¬ c7 → found = .hold .allowance)
      ∧ (c7 ∧ ¬ c8 → found = .hold .stale)
      ∧ (c8 ∧ ¬ c9 → found = .hold .localControl)
      ∧ (c9 ∧ ¬ c10 → found = .hold .guard)
      ∧ (c10 ∧ ¬ c11 → found = .hold .interlock)
      ∧ (c11 ∧ ¬ c12 → found = .hold .load)
      ∧ (c12 ∧ ¬ c13 → found = .hold .level)
      ∧ (c13 ∧ ¬ c14 → found = .hold .floor)
      ∧ (c14 ∧ ¬ c15 → found = .hold .cap)
      ∧ (c15 ∧ ¬ room → found = .hold .room)
      ∧ (found = .eligible ↔ c15 ∧ room))
    ∧ (o.action = .stop →
      let c7 := c3 ∧ r.state = .running
      let c8 := c7 ∧ ∀ x, r.minRun = some x → epochOffset x now ≤ 0
      let c9 := c8 ∧ quietGroup
      (c7 ∧ ¬ c8 → found = .hold .minRun)
      ∧ (c8 ∧ ¬ c9 → found = .hold .guard)
      ∧ (c9 ∧ ¬ room → found = .hold .room)
      ∧ (found = .eligible ↔ c9 ∧ room)))
  ∧ ∀ (t : Tables) (s : State) (k : Fin 64) (p : Fin 32),
      let slot (d : Nat) : Fin 64 := slotOf t.map.ringSize (s.rt.reclaim + BitVec.ofNat 16 d)
      let queued (j : Fin 64) : Prop := ∃ o, waitingOrder (s.ob.at j) = some o ∧ o.pump = p
      isHead t s k p = true ↔
        ∃ d, d < t.map.ringSize.slots ∧ slot d = k ∧ queued k ∧ ∀ c, c < d → ¬ queued (slot c)

/-- What the pump's state alone decides of an order past the first three checks (R81, R89). -/
def Obligations.PumpStateDecidesVerdict : Prop :=
  ∀ (t : Tables) (s : State) (k : Fin 64) (o : Order),
    s.csu.sched = .run → isHead t s k o.pump = true → reached o.earliest s.cbu.now = true →
      (o.action = .start →
        (match (s.psu.pumps.at o.pump).state with
          | .running => judgeHost t s k o = .refuse .alreadyRunning
          | .lockout => judgeHost t s k o = .hold .lockout
          | .unknown => judgeHost t s k o = .hold .stale
          | .stopped => ∀ r, judgeHost t s k o ≠ .refuse r
          | .startSent | .starting | .stopSent | .stopping => judgeHost t s k o = .hold .pumpBusy))
      ∧ (o.action = .stop →
        (match (s.psu.pumps.at o.pump).state with
          | .stopped | .stopSent | .stopping => judgeHost t s k o = .refuse .notRunning
          | .lockout => judgeHost t s k o = .refuse .lockedOut
          | .unknown => judgeHost t s k o = .hold .stale
          | .startSent | .starting => judgeHost t s k o = .hold .pumpBusy
          | .running => ∀ r, judgeHost t s k o ≠ .refuse r))

/-- The one winner rule (R77): an eligible internal entry before every host order, the earliest raised first and equal
times by raise sequence; otherwise the host order of highest priority, and of equal priority the nearest to reclaim. A
winner exists exactly when an entry or an order is eligible, and the round releases it. A round writes its judgements to
the Order Book: a held order takes the first failing check as its reason (R76), an order refused at evaluation becomes
REFUSED with its verdict and loses its sweep mark, and ORDER_REFUSED is raised exactly then (R91). That the round judges
and releases host orders in the state that its withdrawals leave is the model's choice (log 16), and so is that the queue
heads are those it then finds (log 17). The candidates are the WAITING
entries of the pass's beginning that R92's checks pass, and the WAITING host orders that every check of 4.2 passes. -/
def Obligations.WinnerRule : Prop :=
  ∀ (t : Tables) (seq0 : Nat) (s : State),
    (∀ e o, internalWinner t seq0 s = some (e, o) →
      (e, o) ∈ internalCandidates t seq0 s
      ∧ ∀ f q, (f, q) ∈ internalCandidates t seq0 s →
          epochOffset o.raised s.cbu.now < epochOffset q.raised s.cbu.now
          ∨ (epochOffset o.raised s.cbu.now = epochOffset q.raised s.cbu.now ∧ o.seq ≤ q.seq))
    ∧ (internalWinner t seq0 s = none ↔ internalCandidates t seq0 s = [])
    ∧ (∀ e o, (e, o) ∈ internalCandidates t seq0 s ↔
        let r := s.psu.pumps.at o.pump
        s.ilu.store.at e = .waiting o ∧ o.seq < seq0
        ∧ (r.state = .running ∨ r.state = .starting ∨ (r.state = .lockout ∧ s.rsu.runningBits.at o.pump = true))
        ∧ s.psu.groups.at (t.houses.at (t.pumps.at o.pump).house).group = .quiet
        ∧ (s.rt.release - s.rt.take).toNat < t.map.ringSize.slots
        ∧ (o.kind = .timedStop → ∀ x, r.minRun = some x → epochOffset x s.cbu.now ≤ 0))
    ∧ (∀ k o, hostWinner t s = some (k, o) →
      k.val < t.map.ringSize.slots ∧ waitingOrder (s.ob.at k) = some o ∧ judgeHost t s k o = .eligible
      ∧ ∀ j q, j.val < t.map.ringSize.slots → waitingOrder (s.ob.at j) = some q → judgeHost t s j q = .eligible →
          q.priority < o.priority
          ∨ (q.priority = o.priority
              ∧ distToSlot t.map.ringSize s.rt.reclaim k ≤ distToSlot t.map.ringSize s.rt.reclaim j))
    ∧ (hostWinner t s = none ↔ hostCandidates t s = [])
    ∧ (hostCandidates t s = [] ↔
        ∀ k o, k.val < t.map.ringSize.slots → waitingOrder (s.ob.at k) = some o → judgeHost t s k o ≠ .eligible)
    ∧ (let refuses := ∃ k o r, waitingOrder (s.ob.at k) = some o ∧ judgeHost t s k o = .refuse r
      let written := s.setOb (Tab.ofFn fun k =>
        match waitingOrder (s.ob.at k) with
        | none => s.ob.at k
        | some o =>
          match judgeHost t s k o with
          | .eligible => s.ob.at k
          | .hold r => { s.ob.at k with reason := r }
          | .refuse r => { s.ob.at k with state := .refused, reason := r, mark := false })
      (refuses → recordJudgements t s = written.setCsu { s.csu with flags := flagsWith s .orderRefused })
      ∧ (¬ refuses → recordJudgements t s = written))
    ∧ (let judged := withdrawAll t seq0 s
      (∀ e o, internalWinner t seq0 judged = some (e, o) →
        (releaseRound t seq0 s).state = releaseInternal t e o (recordJudgements t judged))
      ∧ (internalWinner t seq0 judged = none →
          (∀ k o, hostWinner t judged = some (k, o) →
            (releaseRound t seq0 s).state = releaseHost t k o (recordJudgements t judged))
          ∧ (hostWinner t judged = none → (releaseRound t seq0 s).state = recordJudgements t judged)))

/-- The effects of a release (R94): a host START for a STOPPED pump of a QUIET group (R48), a host STOP for a RUNNING one
(R49), and an internal stop for a RUNNING, a STARTING or a LOCKOUT one (R125, R49): the release list, the origin's store,
the pump and the group (R68), and nothing else. A sweep mark lost so counts as missed (R190); a pump that becomes
STOP_SENT loses its stop-owed flag (R122). The round's withdrawals (R92, R93, R126): the WAITING entries of the pass's
beginning whose pump is STOPPED, STOP_SENT, STOPPING, or in LOCKOUT reported not running become FREE, each with its
take-in, the earliest raised first and equal times by raise sequence (R116). -/
def Obligations.ReleaseEffects : Prop :=
  (∀ (t : Tables) (k : Fin 64) (o : Order) (s : State),
      let r := s.psu.pumps.at o.pump
      let g := (t.houses.at (t.pumps.at o.pump).house).group
      let released (owed : Tab 32 (Option Cause)) (after : PumpRec) : State :=
        (((((s.setRt { s.rt with
              list := s.rt.list ++ [{ origin := .host k, grant := s.cbu.now }]
              release := s.rt.release + 1 }).setOb (s.ob.put k { s.ob.at k with
                state := .released
                reason := .none
                grant := some s.cbu.now
                mark := false })).setIlu { s.ilu with owed }).setPsu
              { pumps := s.psu.pumps.put o.pump after,
                groups := s.psu.groups.put g (.armed (t.pumps.at o.pump).house s.rt.release) })).setCsu
              { s.csu with missed := if (s.ob.at k).mark = true then satSucc s.csu.missed else s.csu.missed }
      s.psu.groups.at g = .quiet →
        (o.action = .start → r.state = .stopped → releaseHost t k o s =
          released s.ilu.owed { r with state := .startSent, allowance := r.allowance - 1, orderedRun := some o.run })
        ∧ (o.action = .stop → r.state = .running → releaseHost t k o s =
          released (s.ilu.owed.put o.pump none) { r with state := .stopSent, runEnd := none, started := false }))
  ∧
  (∀ (t : Tables) (e : Fin 8) (o : InternalOrder) (s : State),
      let r := s.psu.pumps.at o.pump
      let g := (t.houses.at (t.pumps.at o.pump).house).group
      let released (owed : Tab 32 (Option Cause)) (after : PumpRec) : State :=
        ((s.setRt { s.rt with
              list := s.rt.list ++ [{ origin := .internal e, grant := s.cbu.now }]
              release := s.rt.release + 1 }).setIlu { s.ilu with
                store := s.ilu.store.put e (.released o s.cbu.now)
                owed }).setPsu
              { pumps := s.psu.pumps.put o.pump after,
                groups := s.psu.groups.put g (.armed (t.pumps.at o.pump).house s.rt.release) }
      s.psu.groups.at g = .quiet →
        (r.state = .running → releaseInternal t e o s =
          released (s.ilu.owed.put o.pump none) { r with state := .stopSent, runEnd := none, started := false })
        ∧ (r.state = .starting → releaseInternal t e o s =
          released (s.ilu.owed.put o.pump none) { r with state := .stopSent, confirm := none, orderedRun := none })
        ∧ (r.state = .lockout → releaseInternal t e o s = released s.ilu.owed r))
  ∧
  (∀ (t : Tables) (seq0 : Nat) (s : State),
      let goes (e : Fin 8) : Prop := ∃ o, s.ilu.store.at e = .waiting o ∧ o.seq < seq0 ∧ FoundStopped s o.pump
      let before (e f : Fin 8) : Prop := ∀ o q, s.ilu.store.at e = .waiting o → s.ilu.store.at f = .waiting q →
        epochOffset o.raised s.cbu.now < epochOffset q.raised s.cbu.now
          ∨ (epochOffset o.raised s.cbu.now = epochOffset q.raised s.cbu.now ∧ o.seq ≤ q.seq)
      let freed (x : State) (e : Fin 8) : State :=
        takeIn t (x.setIlu { x.ilu with store := x.ilu.store.put e .free })
      ((∀ e, ¬ goes e) → withdrawAll t seq0 s = s)
      ∧ (∀ e, goes e → (∀ f, goes f → f = e) → withdrawAll t seq0 s = freed s e)
      ∧ ∃ l : List (Fin 8), l.Nodup ∧ (∀ e, e ∈ l ↔ goes e) ∧ l.Pairwise before ∧ withdrawAll t seq0 s = l.foldl freed s)

/-- A feeder's committed load is the sum of what its configured pumps contribute by their state (R65). At every release of
a START, the committed load of that pump's feeder after the release does not exceed the feeder's limit (R65, R85). -/
def Obligations.StartStaysWithinFeederLimit : Prop :=
  (∀ (t : Tables) (s : State) (f : Fin 4),
    committedLoad t s f = ∑ p : Fin 32,
      if p.val < t.pumpCount.val ∧ (t.pumps.at p).feeder = f then
        match (s.psu.pumps.at p).state with
        | .stopped => 0
        | .startSent | .starting => (t.pumps.at p).startingUnits
        | .running | .stopSent | .stopping | .unknown => (t.pumps.at p).runningUnits
        | .lockout => if s.rsu.runningBits.at p = true then (t.pumps.at p).runningUnits else 0
      else 0)
  ∧ ∀ (t : Tables) (k : Fin 64) (o : Order) (s : State), o.action = .start → judgeHost t s k o = .eligible →
      committedLoad t (releaseHost t k o s) (t.pumps.at o.pump).feeder ≤ t.limits.at (t.pumps.at o.pump).feeder

/-- A pass ends after at most 73 rounds (R76): allowing more changes nothing. The judgements of its last round stand: every
host order still WAITING keeps as its reason the first check that fails for it in the state the pass leaves, and no entry
of the pass's beginning is eligible in that state (R76, R77). -/
def Obligations.PassEndsWithin73Rounds : Prop :=
  (∀ (t : Tables) (s : State) (n : Nat), 73 ≤ n →
    releaseRounds t s.ilu.nextSeq n s = releaseRounds t s.ilu.nextSeq 73 s)
  ∧ ∀ (t : Tables) (s u : State) (n : Nat), s.ra.requests = n + 1 → s.tables = some t →
      exec .releasePass s = .next u →
        (∀ k o, waitingOrder (u.ob.at k) = some o → judgeHost t u k o = .hold (u.ob.at k).reason)
        ∧ internalWinner t s.ilu.nextSeq u = none

/-- A take-in (R123): with no entry FREE or no flag to select it changes nothing; otherwise the lowest-numbered pump whose
flag is set and that is not START_SENT is taken first, into the lowest-numbered FREE entry: a TIMED_STOP, a TRIP_STOP with
the cause now found, or the flag cleared; and the rest follows in the same way. It ends with no FREE entry, or with no
flag set except those of START_SENT pumps; it requests one pass if it raised or cleared a flag, and none otherwise. -/
def Obligations.TakeInLeavesNothingToTake : Prop :=
  ∀ (t : Tables) (s : State),
    let u := takeIn t s
    let selectable (p : Fin 32) : Prop := s.ilu.owed.at p ≠ none ∧ (s.psu.pumps.at p).state ≠ .startSent
    ((∀ e, s.ilu.store.at e ≠ .free) ∨ (∀ p, ¬ selectable p) → u = s)
    ∧ (∀ e p c, LowestFree s e → selectable p → (∀ q, q < p → ¬ selectable q) → s.ilu.owed.at p = some c →
        u.setRa s.ra = (takeIn t (flagTakenIn t e p c s)).setRa s.ra)
    ∧ ((∀ e, u.ilu.store.at e ≠ .free)
      ∨ ∀ p, u.ilu.owed.at p ≠ none → (u.psu.pumps.at p).state = .startSent)
    ∧ (u.ilu.owed = s.ilu.owed → u = s)
    ∧ (u.ilu.owed ≠ s.ilu.owed → u.ra.requests = s.ra.requests + 1)

/-! ### Orders -/

/-- SUBMIT_ADVANCE: at the acknowledge of a submit write, submit becomes the value written, and the indexes from the old
submit on are admitted in index order, each admission seeing the ones before it (R5, R34): y d is what the first d of
them leave. Then the reclaim advance may free entries that are finished (R11), and one pass is requested, unless the
value equals submit (R5). An entry outside the newly submitted slots stands, or is freed so. What an admission finds is
AdmissionChecksInOrder's. The row's guard is log 9. -/
def Obligations.SubmitAdvanceTaken : Prop :=
  ∀ (s : State) (u : UpCycle) (t : Tables), SnoopInFlight s u .submitWord → s.tables = some t →
    let v := u.cycle.data
    ∃ x, exec .submitAdvance s = .next x
      ∧ x.bpu.upstream = none ∧ x.bpu.ending = (if u.abandoned then s.bpu.ending else .ack none)
      ∧ x.rt.submit = v ∧ x.rt.take = s.rt.take ∧ x.rt.release = s.rt.release ∧ x.rt.list = s.rt.list
      ∧ x.ra.requests = (if v = s.rt.submit then s.ra.requests else s.ra.requests + 1)
      ∧ (v = s.rt.submit → x.rt = s.rt ∧ x.ob = s.ob ∧ x.csu = s.csu)
      ∧ x.csu = { s.csu with flags := x.csu.flags } ∧ x.bpu.capture = s.bpu.capture
      ∧ (∀ k, (∀ d, d < (v - s.rt.submit).toNat → slotOf t.map.ringSize (s.rt.submit + BitVec.ofNat 16 d) ≠ k) →
          x.ob.at k = s.ob.at k ∨ (finished (s.ob.at k).state = true ∧ x.ob.at k = Entry.reset))
      ∧ (∃ y : Nat → State, y 0 = s
          ∧ (∀ d, d < (v - s.rt.submit).toNat →
              IndexAdmitted t (slotOf t.map.ringSize (s.rt.submit + BitVec.ofNat 16 d)) (y d) (y (d + 1)))
          ∧ (let z := y (v - s.rt.submit).toNat
            x.csu = z.csu
              ∧ ∀ k, x.ob.at k = z.ob.at k ∨ (finished (z.ob.at k).state = true ∧ x.ob.at k = Entry.reset)))
      ∧ x.tables = s.tables ∧ x.psu = s.psu ∧ x.rsu = s.rsu ∧ x.ilu = s.ilu ∧ x.cbu = s.cbu ∧ x.iml = s.iml

/-- The admission checks in their order (R35): each line is a check that fails with every check before it passed, and the
last is the order parsed by the slot words of its form (R23 to R25, R33), with the earliest and latest starts of the short
form (R31) and of the long form (R32). Sums are taken modulo the clock's cycle (R140). -/
def Obligations.AdmissionChecksInOrder : Prop :=
  ∀ (t : Tables) (s : State) (e : Entry),
    let form := recorded e 0 / 4096
    let action := recorded e 0 / 256 % 16
    let pump := (recorded e 0 % 256).toNat
    let who : Fin 32 := Fin.ofNat 32 pump
    let needed : List (Fin 6) := if e.words.at 0 ≠ none ∧ form = 2 then [0, 1, 2, 3, 4, 5] else [0, 1, 2, 3]
    let marked := ∀ w, w ∈ needed → e.words.at w ≠ none
    let minutes := if form = 1 then recorded e 2 else recorded e 4
    let short := form = 1
    let badTime := timeField (recorded e 2) = none ∨ timeField (recorded e 3) = none
    let today := (s.cbu.now / 86400 + (recorded e 1 % 2).toNat) * 86400
    let opens := (timeField (recorded e 2)).getD 0
    let closes := (timeField (recorded e 3)).getD 0
    let earliest :=
      if short then (s.cbu.now + (recorded e 1 % 256).toNat * 60) % 4294944000 else (today + opens) % 4294944000
    let latest :=
      if short then (earliest + t.defaultWindow) % 4294944000
      else (today + (if closes < opens then 86400 + closes else closes)) % 4294944000
    let c1 := s.cbu.clockSet = true
    let c2 := c1 ∧ marked
    let c3 := c2 ∧ (form = 1 ∨ form = 2)
    let c4 := c3 ∧ (action = 1 ∨ action = 2)
    let c5 := c4 ∧ pump < t.pumpCount.val
    let c6 := c5 ∧ (short ∨ ¬ badTime)
    let c7 := c6 ∧ (action = 2 ∨ minutes.toNat ≤ 1440)
    (s.cbu.clockSet = false → admission t s e = .error .clockNotSet)
    ∧ (c1 ∧ ¬ marked → admission t s e = .error .incomplete)
    ∧ (c2 ∧ ¬ (form = 1 ∨ form = 2) → admission t s e = .error .badForm)
    ∧ (c3 ∧ ¬ (action = 1 ∨ action = 2) → admission t s e = .error .badAction)
    ∧ (c4 ∧ t.pumpCount.val ≤ pump → admission t s e = .error .badPump)
    ∧ (c5 ∧ ¬ short ∧ badTime → admission t s e = .error .badTime)
    ∧ (c6 ∧ action = 1 ∧ 1440 < minutes.toNat → admission t s e = .error .badField)
    ∧ (c7 ∧ epochOffset latest s.cbu.now < 0 → admission t s e = .error .tooLate)
    ∧ (c7 ∧ 0 ≤ epochOffset latest s.cbu.now ∧ 2 ≤ waitingCount s who → admission t s e = .error .queueFull)
    ∧ (c7 ∧ 0 ≤ epochOffset latest s.cbu.now ∧ waitingCount s who < 2 → admission t s e = .ok
        { form := if short then .short else .long
          action := if action = 1 then .start else .stop
          pump := who
          priority := (recorded e 1 / 256 % 8).toNat
          earliest
          latest
          run := if action = 1 then minutes.toNat * 60 else 0
          tag := if short then recorded e 3 else recorded e 5 })

/-- R31: the earliest and latest starts of a short-form order admitted with the clock at now; an offset of 0 makes the
earliest start the moment of admission, and a short-form order is never refused TOO_LATE. Sums are taken modulo the
clock's cycle (R140). -/
def Obligations.ShortFormTimes : Prop :=
  ∀ (t : Tables) (s : State) (e : Entry), s.cbu.now < 4294944000 → 60 ≤ t.defaultWindow → t.defaultWindow ≤ 7200 →
    (∀ o, admission t s e = .ok o → o.form = .short →
      let offset := (recorded e 1 % 256).toNat
      o.earliest = (s.cbu.now + offset * 60) % 4294944000
      ∧ o.latest = (o.earliest + t.defaultWindow) % 4294944000
      ∧ (offset = 0 → o.earliest = s.cbu.now))
    ∧ (recorded e 0 / 4096 = 1 → admission t s e ≠ .error .tooLate)

/-- R30: which time-of-day fields are valid and what they stand for; a long-form order with an invalid one is refused
BAD_TIME when it has passed the checks before; a short-form order carries none. -/
def Obligations.TimeOfDayFields : Prop :=
  (∀ w : Word,
    let ht := (w / 4096).toNat
    let hu := (w / 256 % 16).toNat
    let mt := (w / 16 % 16).toNat
    let mu := (w % 16).toNat
    let valid := ht ≤ 9 ∧ hu ≤ 9 ∧ mt ≤ 9 ∧ mu ≤ 9 ∧ ht * 10 + hu ≤ 23 ∧ mt * 10 + mu ≤ 59
    (valid → timeField w = some ((ht * 10 + hu) * 3600 + (mt * 10 + mu) * 60))
    ∧ (¬ valid → timeField w = none)
    ∧ ∀ n, timeField w = some n → n ≤ 86340)
  ∧ (∀ (t : Tables) (s : State) (e : Entry), s.cbu.clockSet = true → (∀ w, e.words.at w ≠ none) →
      (recorded e 0 / 256 % 16 = 1 ∨ recorded e 0 / 256 % 16 = 2) → (recorded e 0 % 256).toNat < t.pumpCount.val →
        (recorded e 0 / 4096 = 2 →
          (admission t s e = .error .badTime ↔ timeField (recorded e 2) = none ∨ timeField (recorded e 3) = none))
        ∧ (recorded e 0 / 4096 = 1 → admission t s e ≠ .error .badTime))

/-- SLOT_WORD_WRITE: at the acknowledge of a snooped slot word write the value is recorded and its mark set (R26).
REPORT_WORD_WRITE: the word's seen bit is set, and words 1 to 6 are recorded with their value (R100). The cycle ends with
UACK, the freed port is granted, and nothing else changes. The rows' guards are log 9. -/
def Obligations.SnoopedWordsRecorded : Prop :=
  ∀ (s : State) (u : UpCycle), s.tables.isSome = true →
    let ended := s.setBpu { s.bpu with
      memPort := none
      upstream := none
      ending := if u.abandoned then s.bpu.ending else .ack none }
    (∀ (k : Fin 64) (w : Fin 6), SnoopInFlight s u (.slotWord k w) →
        exec .slotWordWrite s = .next (grant (ended.setOb
          (s.ob.put k { s.ob.at k with words := (s.ob.at k).words.put w (some u.cycle.data) }))))
    ∧ (∀ (h : Fin 12) (w : Fin 7), SnoopInFlight s u (.reportWord h w) →
        let r := s.rsu.houses.at h
        let buffer : AssemblyBuffer :=
          if w = 0 then { r.buffer with clockSeen := true }
          else { r.buffer with words := r.buffer.words.put (Fin.ofNat 6 (w.val - 1)) (some u.cycle.data) }
        exec .reportWordWrite s =
          .next (grant (ended.setRsu { s.rsu with houses := s.rsu.houses.put h { r with buffer } })))

/-- CANCEL_REQUEST for slot k, submitted: a WAITING order becomes CANCELLED with reason HOST_CANCEL and a pass is
requested; a RELEASED or DISPATCHED one is late-cancelled; a finished one stands (R42). -/
def Obligations.CancelRequestTaken : Prop :=
  ∀ (s : State) (t : Tables) (a : Addr) (v : Word) (k : Fin 64), Accepting s → s.tables = some t →
    RingWord t s a k 7 → v.toNat / 4096 = 12 →
      (((s.ob.at k).state = .released ∨ (s.ob.at k).state = .dispatched) →
        exec (.cancelRequest a v) s = .next (((acknowledged s).setOb
          (s.ob.put k { s.ob.at k with late := true })).setCsu { s.csu with flags := flagsWith s .lateCancel }))
      ∧ (((s.ob.at k).state = .refused ∨ (s.ob.at k).state = .cancelled ∨ (s.ob.at k).state = .expired) →
        exec (.cancelRequest a v) s = .next (acknowledged s))
      ∧ ((s.ob.at k).state = .waiting →
        ∃ x, exec (.cancelRequest a v) s = .next x
          ∧ (x.ob.at k = { s.ob.at k with state := .cancelled, reason := .hostCancel, mark := false }
              ∨ x.ob.at k = Entry.reset)
          ∧ (∀ j, j ≠ k → x.ob.at j = s.ob.at j
              ∨ (finished (s.ob.at j).state = true ∧ x.ob.at j = Entry.reset))
          ∧ x.ra.requests = s.ra.requests + 1 ∧ x.bpu = (acknowledged s).bpu
          ∧ x.rt.submit = s.rt.submit ∧ x.rt.take = s.rt.take ∧ x.rt.release = s.rt.release ∧ x.rt.list = s.rt.list
          ∧ x.tables = s.tables ∧ x.psu = s.psu ∧ x.rsu = s.rsu ∧ x.ilu = s.ilu ∧ x.cbu = s.cbu ∧ x.iml = s.iml
          ∧ x.csu = s.csu)

/-- TAKE_ADVANCE: at the acknowledge of a take write, take becomes the value written and the positions below it leave the
head of the release list; a RELEASED entry among them becomes DISPATCHED, and a finished entry may be freed by the reclaim
advance (R11); a pass is requested unless the value equals take (R8, R19). The row's guard is log 9. -/
def Obligations.TakeAdvanceTaken : Prop :=
  ∀ (s : State) (u : UpCycle) (t : Tables), SnoopInFlight s u .takeWord → s.tables = some t →
    let v := u.cycle.data
    ∃ x, exec .takeAdvance s = .next x
      ∧ x.bpu.upstream = none ∧ x.bpu.ending = (if u.abandoned then s.bpu.ending else .ack none)
      ∧ x.rt.take = v ∧ x.rt.release = s.rt.release ∧ x.rt.submit = s.rt.submit
      ∧ x.rt.list = s.rt.list.drop (v - s.rt.take).toNat
      ∧ (∀ k,
          let dispatched := (s.ob.at k).state = .released
            ∧ ∃ gr, ({ origin := .host k, grant := gr } : Released) ∈ s.rt.list.take (v - s.rt.take).toNat
          (dispatched →
            x.ob.at k = { s.ob.at k with state := .dispatched, reason := .none } ∨ x.ob.at k = Entry.reset)
          ∧ (¬ dispatched →
            x.ob.at k = s.ob.at k ∨ (finished (s.ob.at k).state = true ∧ x.ob.at k = Entry.reset)))
      ∧ x.csu = { s.csu with flags := x.csu.flags }
      ∧ (v ≠ s.rt.take → s.ra.requests + 1 ≤ x.ra.requests)
      ∧ (v = s.rt.take → x.rt = s.rt ∧ x.ob = s.ob ∧ x.ra = s.ra ∧ x.psu = s.psu ∧ x.ilu = s.ilu ∧ x.csu = s.csu)
      ∧ x.tables = s.tables ∧ x.rsu = s.rsu ∧ x.cbu = s.cbu ∧ x.iml = s.iml

/-- A take advance of any number of positions (R19): the positions below the value written are taken one after another,
in position order, each notice handled whole before the next; y d is what the first d notices leave of the blocks past
the Ring Tracker. A notice goes to the origin's store, then to the pump and its group, then to the Interlock Unit
(NoticeHandled, pumpNotified: R39, R127, R50, R51, R122, R70, R124, R120). Then the reclaim advance may free entries that
are finished (R11), and one pass is requested, beside those of the take-ins. -/
def Obligations.TakenPositionsDispatchedInOrder : Prop :=
  ∀ (s : State) (u : UpCycle) (t : Tables), SnoopInFlight s u .takeWord → s.tables = some t →
    u.cycle.data ≠ s.rt.take →
      let n := (u.cycle.data - s.rt.take).toNat
      let taken := s.rt.list.take n
      ∃ (x : State) (y : Nat → State), exec .takeAdvance s = .next x
        ∧ y 0 = s
        ∧ (∀ d a, taken[d]? = some a →
            NoticeHandled t (s.rt.take + BitVec.ofNat 16 d) a.origin (y d) (y (d + 1)))
        ∧ (let z := y taken.length
          x.psu = z.psu ∧ x.ilu = z.ilu ∧ x.csu = z.csu ∧ x.ra.requests = z.ra.requests + 1
            ∧ ∀ k, x.ob.at k = z.ob.at k ∨ (finished (z.ob.at k).state = true ∧ x.ob.at k = Entry.reset))
        ∧ x.rt.take = u.cycle.data ∧ x.rt.list = s.rt.list.drop n ∧ x.rt.submit = s.rt.submit
        ∧ x.rt.release = s.rt.release ∧ x.tables = s.tables ∧ x.rsu = s.rsu ∧ x.cbu = s.cbu ∧ x.iml = s.iml

/-! ### Reports and trips -/

/-- SEQUENCE_WORD_WRITE of a record that does not commit: an incomplete one and a duplicate are counted, saturating at
65,535 (R102), and the buffer is emptied; the cycle ends with UACK, the freed port is granted, and nothing else changes
(R101). -/
def Obligations.SequenceWordNotCommitted : Prop :=
  ∀ (s : State) (u : UpCycle) (h : Fin 12), SnoopInFlight s u (.sequenceWord h) → s.tables.isSome = true →
      let r := s.rsu.houses.at h
      let complete := r.buffer.clockSeen = true ∧ ∀ w, r.buffer.words.at w ≠ none
      let ended := s.setBpu { s.bpu with
        memPort := none
        upstream := none
        ending := if u.abandoned then s.bpu.ending else .ack none }
      let emptied := s.rsu.houses.put h { r with buffer := { clockSeen := false, words := Tab.all none } }
      let up (n : Word) : Word := if n = 65535 then n else n + 1
      (¬ complete → exec .sequenceWordWrite s = .next (grant (ended.setRsu { s.rsu with
          houses := emptied
          incompletes := up s.rsu.incompletes })))
      ∧ (complete → r.lastSequence = some u.cycle.data →
          exec .sequenceWordWrite s = .next (grant (ended.setRsu { s.rsu with
            houses := emptied
            duplicates := up s.rsu.duplicates })))

/-- SEQUENCE_WORD_WRITE of a complete record with a new sequence commits it (R101, R103): levels (R104), reported bits
(R106), local control (R107), freshness (R108), then the offer set (R110) in ascending pump number, each pump of the house
handled by the PSU (R52) and every offered pump evaluated (R118, R119), and one pass. UNEXPECTED_STATE is raised exactly
when a RUNNING pump of the house is reported not running or a STOPPED one running, with no fault (R56, R57). -/
def Obligations.SequenceWordCommits : Prop :=
  ∀ (s : State) (u : UpCycle) (h : Fin 12) (t : Tables), SnoopInFlight s u (.sequenceWord h) → s.tables = some t →
    let r := s.rsu.houses.at h
    let word (i : Fin 6) : Word := (r.buffer.words.at i).getD 0
    let level (valid : Bool) (w : Word) : Option Nat := if valid = true ∧ w.toNat ≤ 9999 then some w.toNat else none
    let own (p : Fin 32) : Prop := configured t p = true ∧ (t.pumps.at p).house = h
    let offers : List (Fin 32) := (List.finRange 32).filter fun p =>
      let mine := t.houses.at h
      let his := t.houses.at (t.pumps.at p).house
      decide (configured t p = true ∧ ((t.pumps.at p).house = h
        ∨ his.suction = mine.suction ∨ his.suction = mine.delivery
        ∨ his.delivery = mine.suction ∨ his.delivery = mine.delivery))
    let offer (y : State) (p : Fin 32) : State :=
      evaluatePump t p (if (t.pumps.at p).house = h then commitPump t p y else y)
    r.buffer.clockSeen = true → (∀ w, r.buffer.words.at w ≠ none) → r.lastSequence ≠ some u.cycle.data →
      ∃ x, exec .sequenceWordWrite s = .next x
        ∧ x.rsu.houses = s.rsu.houses.put h
            { freshness := .fresh { expiry := (s.cbu.now + (t.houses.at h).staleTime) % 4294944000, due := false },
              localControl := (word 5).getLsbD 0, lastSequence := some u.cycle.data,
              buffer := { clockSeen := false, words := Tab.all none } }
        ∧ x.rsu.levels = (s.rsu.levels.put (t.houses.at h).suction (level ((word 2).getLsbD 0) (word 0))).put
            (t.houses.at h).delivery (level ((word 2).getLsbD 1) (word 1))
        ∧ (∀ p, own p →
            x.rsu.runningBits.at p = (word 3).getLsbD (t.pumps.at p).position.val
            ∧ x.rsu.faultBits.at p = (word 4).getLsbD (t.pumps.at p).position.val
            ∧ x.psu.pumps.at p = pumpCommitted (t.pumps.at p) s.cbu.now (x.rsu.runningBits.at p)
                (x.rsu.faultBits.at p) (s.psu.pumps.at p))
        ∧ (∀ p, ¬ own p →
            x.rsu.runningBits.at p = s.rsu.runningBits.at p ∧ x.rsu.faultBits.at p = s.rsu.faultBits.at p
            ∧ x.psu.pumps.at p = s.psu.pumps.at p)
        ∧ x.ilu = (offers.foldl offer (s.setRsu x.rsu)).ilu ∧ x.csu = (offers.foldl offer (s.setRsu x.rsu)).csu
        ∧ (flagSet x .unexpectedState = true ↔ flagSet s .unexpectedState = true
            ∨ ∃ p, own p ∧ x.rsu.faultBits.at p = false
              ∧ (((s.psu.pumps.at p).state = .running ∧ x.rsu.runningBits.at p = false)
                ∨ ((s.psu.pumps.at p).state = .stopped ∧ x.rsu.runningBits.at p = true)))
        ∧ x.rsu.duplicates = s.rsu.duplicates ∧ x.rsu.incompletes = s.rsu.incompletes
        ∧ x.ra.requests = s.ra.requests + 1 ∧ x.psu.groups = s.psu.groups
        ∧ x.csu = { s.csu with flags := x.csu.flags } ∧ x.bpu.upstream = none ∧ x.bpu.capture = s.bpu.capture
        ∧ x.tables = s.tables ∧ x.rt = s.rt ∧ x.ob = s.ob ∧ x.cbu = s.cbu ∧ x.iml = s.iml

/-- What a commit of its own house makes of a pump record, state by state (R53 to R57), and how the PSU takes it: the
record is replaced, a pump that becomes STOPPED loses its stop-owed flag (R122), and UNEXPECTED_STATE is raised when a
RUNNING pump is reported not running or a STOPPED one running, with no fault (R56, R57). -/
def Obligations.CommitReachesPump : Prop :=
  (∀ (st : PumpStatic) (now : Epoch) (running : Bool) (r : PumpRec),
    let after (d : Nat) : Option Epoch := some ((now + d) % 4294944000)
    (r.state ≠ .lockout → pumpCommitted st now running true r =
      { r with state := .lockout, lock := .fault, confirm := none, runEnd := none, orderedRun := none,
               started := false })
    ∧ (∀ fault, r.state = .lockout → pumpCommitted st now running fault r = r)
    ∧ (r.state = .startSent ∨ r.state = .stopSent → pumpCommitted st now running false r = r)
    ∧ (r.state = .unknown → pumpCommitted st now running false r =
        if running then { r with state := .running, minRun := some now }
        else { r with state := .stopped, rest := some now })
    ∧ (r.state = .starting → pumpCommitted st now running false r =
        if running then { r with
          state := .running, confirm := none, minRun := after st.minRun, started := true, orderedRun := none
          runEnd :=
            match r.orderedRun with
            | some n => if 0 < n then some { expiry := (now + n) % 4294944000, due := false } else none
            | none => none }
        else r)
    ∧ (r.state = .stopping → pumpCommitted st now running false r =
        if running then r else { r with state := .stopped, confirm := none, rest := after st.minRest })
    ∧ (r.state = .running → pumpCommitted st now running false r =
        if running then r
        else { r with state := .stopped, rest := after st.minRest, runEnd := none, orderedRun := none,
                      started := false })
    ∧ (r.state = .stopped → pumpCommitted st now running false r =
        if running then { r with state := .running, minRun := after st.minRun } else r))
  ∧ ∀ (t : Tables) (p : Fin 32) (s : State),
      let r := s.psu.pumps.at p
      let running := s.rsu.runningBits.at p
      let fault := s.rsu.faultBits.at p
      let r' := pumpCommitted (t.pumps.at p) s.cbu.now running fault r
      commitPump t p s = ((s.setPsu { s.psu with pumps := s.psu.pumps.put p r' }).setIlu { s.ilu with
          owed := if r'.state = .stopped ∧ r.state ≠ .stopped then s.ilu.owed.put p none else s.ilu.owed }).setCsu
        { s.csu with
          flags :=
            if fault = false ∧ ((r.state = .running ∧ running = false) ∨ (r.state = .stopped ∧ running = true)) then
              flagsWith s .unexpectedState
            else s.csu.flags }

/-- An evaluation of a pump (R118): nothing while a stop is outstanding or no condition holds; a stop owed while the pump
is START_SENT or the store is full; otherwise a TRIP_STOP in the lowest-numbered FREE entry, and TRIP. The cause is the
first that holds of R117's three conditions: LOW_SUCTION, HIGH_DELIVERY, FAULT. -/
def Obligations.EvaluationPlacesTheStop : Prop :=
  ∀ (t : Tables) (p : Fin 32) (s : State),
    let st := (s.psu.pumps.at p).state
    let out := holdsEntry s p = true ∨ st = .stopSent ∨ st = .stopping
    let house := t.houses.at (t.pumps.at p).house
    let low := (st = .startSent ∨ st = .starting ∨ st = .running) ∧ (t.reservoirs.at house.suction).fixed = false
      ∧ ∃ l, s.rsu.levels.at house.suction = some l ∧ l < (t.reservoirs.at house.suction).trip
    let high := st = .running ∧ (t.reservoirs.at house.delivery).fixed = false
      ∧ ∃ l, s.rsu.levels.at house.delivery = some l ∧ (t.reservoirs.at house.delivery).high ≤ l
    let faulted := s.rsu.faultBits.at p = true ∧ s.rsu.runningBits.at p = true
    (low → tripCause t s p = some .lowSuction)
    ∧ (¬ low → high → tripCause t s p = some .highDelivery)
    ∧ (¬ low → ¬ high → faulted → tripCause t s p = some .fault)
    ∧ (¬ low → ¬ high → ¬ faulted → tripCause t s p = none)
    ∧ (out ∨ tripCause t s p = none → evaluatePump t p s = s)
    ∧ (∀ c, ¬ out → tripCause t s p = some c → (st = .startSent ∨ ∀ e, s.ilu.store.at e ≠ .free) →
        evaluatePump t p s =
          s.setIlu { s.ilu with owed := s.ilu.owed.put p (some ((s.ilu.owed.at p).getD c)) })
    ∧ (∀ c e, ¬ out → tripCause t s p = some c → st ≠ .startSent → s.ilu.store.at e = .free →
        (∀ f, f < e → s.ilu.store.at f ≠ .free) →
          evaluatePump t p s = (s.setIlu
            { store := s.ilu.store.put e (.waiting
                { pump := p, kind := .tripStop, cause := c, raised := s.cbu.now, seq := s.ilu.nextSeq }),
              nextSeq := s.ilu.nextSeq + 1, owed := s.ilu.owed.put p none }).setCsu
            { s.csu with flags := flagsWith s .trip })

/-! ### The bus -/

/-- PASSED_CYCLE: a cycle that decodes to a memory-port cycle is handed to the arbiter: granted a free port at once, or
waiting for a busy one (R151, R161); one that decodes to an answer is ended with the answered word (log 8); one that meets
a stall is held undecoded (R159, R160), and the end of the stall carries it out as though presented then. The decode, by
address, initiator and the state of the word (R150): reads of ring words by the host and the panel (R27, R40, R41) and by
the link (R14 to R16, R128), reads of the submit word (R7) and the take word (R10), reads and writes that pass or are
snooped at the ring (R26, R27), the index words (R5, R8), the report area (R98) and the image area (R154); an address in
no window passes (R150, R163). -/
def Obligations.PassedCycleCarriedOut : Prop :=
  (∀ (c : Cycle) (s : State),
    (∀ o, Accepting s → decodeCycle s c = .memory o → HandedToArbiter c s o)
    ∧ (∀ o, Accepting s → decodeCycle s c = .memory o → s.bpu.memPort = none → loaderAddr s = none →
      exec (.passedCycle c) s = .next (s.setBpu { s.bpu with
        upstream := some { cycle := c, stage := .inFlight o, abandoned := false }
        ending := .idle
        lastGrant := .master
        memPort := some
          { owner := .master, write := c.write, lanes := c.lanes, data := c.data, timeout := s.bpu.timeout,
            addr :=
              match o with
              | .redirect a => a
              | _ => c.addr } }))
    ∧ (∀ o, Accepting s → decodeCycle s c = .memory o → s.bpu.memPort.isSome = true →
      exec (.passedCycle c) s = .next (s.setBpu { s.bpu with
        upstream := some { cycle := c, stage := .waiting o, abandoned := false }
        ending := .idle }))
    ∧ (∀ v, Accepting s → decodeCycle s c = .answer v → Answered c s v)
    ∧ (s.bpu.resetn = false → s.bpu.upstream = none → (s.csu.sched = .loading ∨ s.bpu.indexStall = true) →
      exec (.passedCycle c) s = .next (s.setBpu { s.bpu with
        upstream := some { cycle := c, stage := .held, abandoned := false }
        ending := .idle }))
    ∧ (∀ u, s.bpu.upstream = some u → u.stage = .held → u.cycle = c → s.bpu.resetn = false → stalled s = false →
        exec (.passedCycle c) (s.setBpu { s.bpu with upstream := none }) = .next (endStall s))
    ∧ ((∀ u, s.bpu.upstream = some u → u.stage ≠ .held) → endStall s = s))
  ∧
  (∀ (c : Cycle) (s : State) (t : Tables), Accepting s → s.tables = some t →
    let shown (x : Epoch) : Nat :=
      x % 86400 / 36000 * 4096 + x % 86400 / 3600 % 10 * 256 + x % 3600 / 600 * 16 + x % 3600 / 60 % 10
    let answered (n : Nat) : Prop := Answered c s (BitVec.ofNat 16 n)
    let passed : Prop := HandedToArbiter c s .pass
    let snooped (x : SnoopTarget) : Prop := HandedToArbiter c s (.snoop x)
    let atStation : Prop := c.init = .host ∨ c.init = .panel
    -- a read of the ring by the host or the panel
    (∀ k w, RingWord t s c.addr k w → atStation → c.write = false →
      let e := s.ob.at k
      (w < 6 ∨ e.state = .free → passed)
      ∧ (w = 6 → e.state = .released ∨ e.state = .dispatched → ∀ g, e.grant = some g → answered (shown g))
      ∧ (w = 6 → e.state ≠ .released → e.state ≠ .dispatched → passed)
      ∧ (w = 7 → e.state ≠ .free →
          answered ((if e.late = true then 2048 else 0) + entryStateCode e.state * 256 + reasonCode e.reason)))
    -- a read of the ring by the link, of the position at distance d from take
    ∧ (∀ k w d x, RingWord t s c.addr k w → c.init = .link → c.write = false →
        d < t.map.ringSize.slots → slotOf t.map.ringSize (s.rt.take + BitVec.ofNat 16 d) = k →
        d < (s.rt.release - s.rt.take).toNat → s.rt.list[d]? = some x →
      (w = 6 → answered (shown x.grant))
      ∧ (∀ j, x.origin = .host j →
          (w < 6 → HandedToArbiter c s (.redirect (t.map.ringBase + BitVec.ofNat 20 (8 * j.val + w))))
          ∧ (w = 7 → answered ((if (s.ob.at j).late = true then 2048 else 0) + 2 * 256)))
      ∧ (∀ e o, x.origin = .internal e → storeOrder (s.ilu.store.at e) = some o →
          (w = 0 → answered (3 * 4096 + 2 * 256 + o.pump.val))
          ∧ (w = 1 → answered (7 * 256 + causeCode o.cause))
          ∧ (w = 2 ∨ w = 3 ∨ w = 4 → answered 0)
          ∧ (w = 5 → answered e.val)
          ∧ (w = 7 → answered (2 * 256))))
    -- a full write of a FREE slot by the host
    ∧ (∀ k w, RingWord t s c.addr k w → c.init = .host → c.write = true → c.lanes = 3 → (s.ob.at k).state = .free →
      (∀ h : w < 6, snooped (.slotWord k ⟨w, h⟩)) ∧ (6 ≤ w → passed))
    ∧ (SubmitWord t s c.addr →
      (c.write = false → c.init = .link → Answered c s s.rt.release)
      ∧ (c.write = false → atStation → passed)
      ∧ (c.write = true → c.init = .host → c.lanes = 3 → s.csu.sched ≠ .reloading →
          (c.data - s.rt.submit).toNat ≤ t.map.ringSize.slots - (s.rt.submit - s.rt.reclaim).toNat →
            snooped .submitWord))
    ∧ (TakeWord t s c.addr →
      (c.write = false → atStation → Answered c s s.rt.reclaim)
      ∧ (c.write = false → c.init = .link → passed)
      ∧ (c.write = true → c.init = .link → c.lanes = 3 →
          (c.data - s.rt.take).toNat ≤ (s.rt.release - s.rt.take).toNat → snooped .takeWord))
    ∧ (∀ h w, ReportAreaWord t s c.addr h w →
      (c.write = false → c.init ≠ .other → passed)
      ∧ (c.write = true → c.init = .link → c.lanes = 3 →
          (w = 7 → snooped (.sequenceWord h)) ∧ ∀ b : w < 7, snooped (.reportWord h ⟨w, b⟩)))
    ∧ (OutsideStation s c.addr → Unmapped t c.addr → passed))
  ∧
  (∀ (c : Cycle) (s : State), Accepting s →
    (s.tables = none → OutsideStation s c.addr → HandedToArbiter c s .pass)
    ∧ (ImageAreaWord s c.addr → c.write = false → c.init = .host ∨ c.init = .panel → HandedToArbiter c s .pass)
    ∧ (ImageAreaWord s c.addr → c.write = true → c.init = .host → s.csu.sched = .hold ∨ s.csu.sched = .unloaded →
        HandedToArbiter c s .pass))

/-- MEMORY_ACKNOWLEDGE of a master's passed or redirected cycle: UACK, with memory's data for a read, unless the master
has dropped the cycle; the freed port is granted, and nothing else changes (R147, R151, R161). Of the loader's read it is
FETCH_READ or INDEX_READ (log 9), but for a reload's second index read: that leaves the completion event standing, and the
loader in COMPLETE (R176, log 23). -/
def Obligations.MemoryAcknowledgeEndsCycle : Prop :=
  ∀ (v : Word) (s : State),
    (∀ u o, InFlight s u o → (∀ x, o ≠ .snoop x) →
      exec (.memoryAcknowledge v) s = .next (grant (s.setBpu { s.bpu with
        memPort := none
        upstream := none
        ending :=
          if u.abandoned then s.bpu.ending else .ack (if u.cycle.write then none else some v) })))
    ∧ (LoaderReads s → s.iml.phase = .header ∨ s.iml.phase = .body →
        exec (.memoryAcknowledge v) s = exec (.fetchRead v) s)
    ∧ (LoaderReads s → s.iml.phase = .index → s.iml.indexSubmit = none ∨ s.iml.kind = .powerOn →
        exec (.memoryAcknowledge v) s = exec (.indexRead v) s)
    ∧ (LoaderReads s → s.iml.phase = .index → s.iml.indexSubmit ≠ none → s.iml.kind = .reload →
        exec (.memoryAcknowledge v) s = .next ((s.setIml { s.iml with indexTake := some v, phase := .complete }).setBpu
          { s.bpu with memPort := none }))

/-- MEMORY_PORT_TIMEOUT of a master's cycle: UERR, BUS_TIMEOUT and the capture, the freed port granted, and no other
effect whatever the outcome was (R158, R153). Of a read of the loader, a fetch or an index read: the load fails with
BUS_TIMEOUT, a power-on load into UNLOADED and a reload, REJECTED, into its origin state, without flag or capture of the
timeout's own (R162, R173, R178). That the timeout may come at any moment is log 6; what the loader's origin state, sum
and next fetch address hold once the load has ended is log 30. -/
def Obligations.MemoryPortTimeoutEndsCycle : Prop :=
  ∀ s : State,
    (∀ u o, InFlight s u o →
      exec .memoryPortTimeout s = .next (grant ((s.setBpu { s.bpu with
          memPort := none
          upstream := none
          ending := if u.abandoned then s.bpu.ending else .err
          capture := captureAfter s
            { kind := .busTimeout, addr := u.cycle.addr, init := u.cycle.init, cause := .timeout } }).setCsu
        { s.csu with flags := flagsWith s .busTimeout })))
    ∧ (LoaderReads s → exec .memoryPortTimeout s = .next (loadFailed .busTimeout s))

/-- CYCLE_ABANDON: a cycle held undecoded is dropped with no effect; a decoded one runs on and is only marked, so that
its ending is not driven upstream (R147). -/
def Obligations.CycleAbandoned : Prop :=
  ∀ (s : State) (u : UpCycle), s.bpu.upstream = some u →
    (u.stage = .held → exec .cycleAbandon s = .next (s.setBpu { s.bpu with upstream := none }))
    ∧ (u.stage ≠ .held →
        exec .cycleAbandon s = .next (s.setBpu { s.bpu with upstream := some { u with abandoned := true } }))

/-- R6: the writes refused at the submit word, each with the first cause that applies; UERR, INDEX_FAULT, the capture,
no memory cycle, and every index as it stood. (REFUSED_CYCLE.) -/
def Obligations.SubmitWordRefusals : Prop :=
  ∀ (c : Cycle) (s : State) (t : Tables), Accepting s → s.tables = some t → SubmitWord t s c.addr →
    let refused (cause : FaultCause) : Prop := exec (.refusedCycle c) s = .next ((s.setBpu { s.bpu with
        ending := .err
        capture := captureAfter s { kind := .indexFault, addr := c.addr, init := c.init, cause } }).setCsu
      { s.csu with flags := flagsWith s .indexFault })
    let free := t.map.ringSize.slots - (s.rt.submit - s.rt.reclaim).toNat
    let legal := (c.data - s.rt.submit).toNat ≤ free
    (c.init = .other → refused .initiator)
    ∧ (c.write = true → c.init = .link ∨ c.init = .panel → refused .access)
    ∧ (c.write = true → c.init = .host → c.lanes ≠ 3 → refused .width)
    ∧ (c.write = true → c.init = .host → c.lanes = 3 → s.csu.sched = .reloading → refused .state)
    ∧ (c.write = true → c.init = .host → c.lanes = 3 → s.csu.sched ≠ .reloading → ¬ legal → refused .advance)

/-- REFUSED_CYCLE, whatever the word: UERR, the flag of R156, the capture of R157, and nothing else. The refusals, each with
the first cause that applies: at the take word (R9), with INDEX_FAULT; and with PROTECT_VIOLATION at ring words (R18,
R28), in the report area (R98), in the image area (R154) and at the status block (R155). -/
def Obligations.RefusedCycleEnds : Prop :=
  ∀ (c : Cycle) (s : State), Accepting s →
    let write := c.write = true
    let full := c.lanes = 3
    let protect (cause : FaultCause) : Prop :=
      exec (.refusedCycle c) s = .next (refusedState c .protectViolation .protectViolation cause s)
    let index (cause : FaultCause) : Prop :=
      exec (.refusedCycle c) s = .next (refusedState c .indexFault .indexFault cause s)
    (∀ cause, decodeCycle s c = .refuse .protectViolation cause → protect cause)
    ∧ (∀ cause, decodeCycle s c = .refuse .indexFault cause → index cause)
    ∧ (∀ t, s.tables = some t → TakeWord t s c.addr →
        (c.init = .other → index .initiator)
        ∧ (write → c.init = .host ∨ c.init = .panel → index .access)
        ∧ (write → c.init = .link → ¬ full → index .width)
        ∧ (write → c.init = .link → full → (s.rt.release - s.rt.take).toNat < (c.data - s.rt.take).toNat →
            index .advance))
    ∧ (∀ t k w, s.tables = some t → RingWord t s c.addr k w →
        (c.init = .other → protect .initiator)
        ∧ (write → c.init = .link ∨ c.init = .panel → protect .access)
        ∧ (write → c.init = .host → ¬ full → protect .width)
        ∧ (write → c.init = .host → full → (s.ob.at k).state ≠ .free → w < 7 → protect .submitted)
        ∧ (write → c.init = .host → full → (s.ob.at k).state ≠ .free → w = 7 → c.data.toNat / 4096 ≠ 12 →
            protect .badRequest))
    ∧ (∀ t h w, s.tables = some t → ReportAreaWord t s c.addr h w →
        (c.init = .other → protect .initiator)
        ∧ (write → c.init = .host ∨ c.init = .panel → protect .access)
        ∧ (write → c.init = .link → ¬ full → protect .width))
    ∧ (ImageAreaWord s c.addr →
        (c.init = .other → protect .initiator)
        ∧ (c.init = .link → protect .access)
        ∧ (write → c.init = .panel → protect .access)
        ∧ (write → c.init = .host → s.csu.sched = .run ∨ s.csu.sched = .reloading → protect .state))
    ∧ (∀ w, StatusBlockWord s c.addr w →
        (c.init = .other → protect .initiator)
        ∧ (c.init = .link → protect .access)
        ∧ (write → c.init = .panel → protect .access)
        ∧ (write → c.init = .host → ¬ full → protect .width)
        ∧ (write → c.init = .host → full → w ∉ [1, 2, 3, 4, 6, 7, 23, 24, 25] → protect .access))

/-- R17: a link read of any word of a ring slot whose position in [take, take + N) lies outside [take, release) is
answered with 0, raises INDEX_FAULT and fills the capture with cause STRAY; no memory cycle, no index and no list entry
changes. -/
def Obligations.StrayReadAnswered : Prop :=
  ∀ (s : State) (t : Tables) (a : Addr) (lanes : BitVec 2) (k : Fin 64) (w : Nat), Accepting s → s.tables = some t →
    RingWord t s a k w → dist s.rt.take s.rt.release ≤ distToSlot t.map.ringSize s.rt.take k →
      exec (.strayRead a lanes) s = .next ((s.setBpu { s.bpu with
          ending := .ack (some 0)
          capture := captureAfter s { kind := .indexFault, addr := a, init := .link, cause := .stray } }).setCsu
        { s.csu with flags := flagsWith s .indexFault })

/-- The arbiter (R161): with the port free, the grant goes to the one that waits, and to the one that was not granted last
when both wait; the master's cycle carries its own address or the redirected one, the loader's is a full-width read of its
next fetch address, and each is timed by the timeout in force (R148, R158, R162). With the port busy or RESETN asserted
nothing is granted (R159). The loader waits in HEADER and BODY with its next image area word, and in INDEX with the staged
submit word address, then the take word's, in a reload only within the index stall (R4, R160, R165). -/
def Obligations.ArbiterAlternates : Prop :=
  ∀ s : State,
    let masterGets (u : UpCycle) (o : MemOutcome) : Prop := grant s = s.setBpu { s.bpu with
      lastGrant := .master
      upstream := some { u with stage := .inFlight o }
      memPort := some
        { owner := .master, write := u.cycle.write, lanes := u.cycle.lanes, data := u.cycle.data,
          timeout := s.bpu.timeout,
          addr :=
            match o with
            | .redirect a => a
            | _ => u.cycle.addr } }
    let loaderGets (a : Addr) : Prop := grant s = s.setBpu { s.bpu with lastGrant := .loader, memPort := fetchAt s a }
    let waits (u : UpCycle) (o : MemOutcome) : Prop := s.bpu.upstream = some u ∧ u.stage = .waiting o
    let image (k : Nat) : Nat := (s.iml.staging.getD k 0).toNat
    (s.bpu.resetn = true ∨ s.bpu.memPort ≠ none → grant s = s)
    ∧ (s.bpu.resetn = false → s.bpu.memPort = none →
        (NoMasterWaits s → loaderAddr s = none → grant s = s)
        ∧ (∀ u o, waits u o → loaderAddr s = none → masterGets u o)
        ∧ (∀ a, NoMasterWaits s → loaderAddr s = some a → loaderGets a)
        ∧ (∀ u o a, waits u o → loaderAddr s = some a →
            (s.bpu.lastGrant = .loader → masterGets u o) ∧ (s.bpu.lastGrant = .master → loaderGets a)))
    ∧ (s.iml.phase = .idle ∨ s.iml.phase = .complete → loaderAddr s = none)
    ∧ (s.iml.phase = .header ∨ s.iml.phase = .body →
        loaderAddr s = some (BitVec.ofNat 20 (s.bpu.imgsel.toNat * 65536 + s.iml.nextFetch)))
    ∧ (s.iml.phase = .index → s.bpu.indexStall = false → s.iml.kind ≠ .powerOn → loaderAddr s = none)
    ∧ (s.iml.phase = .index → s.bpu.indexStall = true ∨ s.iml.kind = .powerOn →
        (s.iml.indexSubmit = none → loaderAddr s = some (BitVec.ofNat 20 (imageAddress image 3)))
        ∧ (s.iml.indexSubmit ≠ none → loaderAddr s = some (BitVec.ofNat 20 (imageAddress image 5))))

/-! ### The loader -/

/-- FETCH_READ: the word is staged and added to the sum modulo 65,536, and the next read is requested of the arbiter
(R169). At the end of HEADER a format code other than 1 fails the load with FORMAT, a length that the counts do not give,
or above 552, with LENGTH; otherwise BODY follows. At the end of BODY the checks are judged in order (R170): CHECKSUM,
RANGE (R166, R167), OVERLAP (R171), TOPOLOGY (R172); the first that fails fails the load, of either kind (R173, R178), and
otherwise INDEX follows. That the next fetch address is not raised past the last word is log 22, what it, the sum and the
origin state hold after a load has failed log 30, that a reference to another entry is judged by TOPOLOGY and not by RANGE
log 14. The tables of an image that passes are read by the layout of
11.7 (R166, R167). -/
def Obligations.FetchReadStagesWord : Prop :=
  (∀ (v : Word) (s : State), LoaderReads s →
    let n := s.iml.nextFetch
    let sum := s.iml.sum + v
    let w (k : Nat) : Nat := ((s.iml.staging ++ [v]).getD k 0).toNat
    let goesOn (phase : LoadPhase) (next : Nat) : Prop := exec (.fetchRead v) s = .next (grant
      ((s.setIml { s.iml with phase, nextFetch := next, sum, staging := s.iml.staging ++ [v] }).setBpu
        { s.bpu with memPort := none }))
    let fails (r : ImageReason) : Prop := exec (.fetchRead v) s = .next (loadFailed r s)
    (s.iml.phase = .header →
      (n < 31 → goesOn .header (n + 1))
      ∧ (31 ≤ n →
        (w 0 ≠ 1 → fails .format)
        ∧ (w 0 = 1 → (w 16 ≠ countedWords w ∨ 552 < w 16) → fails .length)
        ∧ (w 0 = 1 → w 16 = countedWords w → w 16 ≤ 552 → goesOn .body (n + 1))))
    ∧ (s.iml.phase = .body →
      let last := (s.iml.staging.getD 16 0).toNat
      let base := s.bpu.imgsel.toNat * 65536
      (n + 1 < last → goesOn .body (n + 1))
      ∧ (last ≤ n + 1 →
        (sum ≠ 0 → fails .checksum)
        ∧ (sum = 0 → ¬ ImageInRange w → fails .range)
        ∧ (sum = 0 → ImageInRange w → ¬ ImagePlaced base w → fails .overlap)
        ∧ (sum = 0 → ImageInRange w → ImagePlaced base w → ¬ ImageAgrees w → fails .topology)
        ∧ (sum = 0 → ImageInRange w → ImagePlaced base w → ImageAgrees w → goesOn .index n))))
  ∧ ∀ l : List Word,
    let w (k : Nat) : Nat := (l.getD k 0).toNat
    let P := w 10
    let H := w 11
    let R := w 12
    let F := w 13
    let t := parseTables l
    ImageInRange w → ImageAgrees w →
      (t.map.ringBase.toNat = imageAddress w 1 ∧ t.map.submitAddr.toNat = imageAddress w 3
        ∧ t.map.takeAddr.toNat = imageAddress w 5 ∧ t.map.reportBase.toNat = imageAddress w 7)
      ∧ t.map.ringSize.slots = 8 * 2 ^ (w 9 % 16) ∧ t.map.houseCount.val = H
      ∧ t.pumpCount.val = P ∧ t.reservoirCount.val = R ∧ t.feederCount.val = F
      ∧ t.defaultWindow = w 14 ∧ t.timeout = w 15
      ∧ (∀ p : Fin 32, p.val < P →
          let x (i : Nat) : Nat := w (32 + 8 * p.val + i)
          let e := t.pumps.at p
          e.house.val = x 0 ∧ e.position.val = x 1 ∧ e.feeder.val = x 2 ∧ e.runningUnits = x 3 % 256
          ∧ e.startingUnits = x 3 / 256 ∧ e.minRun = x 4 ∧ e.minRest = x 5 ∧ e.startsPerHour = x 6
          ∧ e.confirmTimeout = x 7)
      ∧ (∀ h : Fin 12, h.val < H →
          let x (i : Nat) : Nat := w (32 + 8 * P + 8 * h.val + i)
          let e := t.houses.at h
          e.suction.val = x 0 ∧ e.delivery.val = x 1 ∧ e.group.val = x 2 ∧ e.surgeGuard = x 3 ∧ e.staleTime = x 4)
      ∧ (∀ r : Fin 16, r.val < R →
          let x (i : Nat) : Nat := w (32 + 8 * P + 8 * H + 4 * r.val + i)
          let e := t.reservoirs.at r
          (e.fixed = true ↔ x 0 = 1) ∧ e.trip = x 1 ∧ e.lowSuction = x 2 ∧ e.high = x 3)
      ∧ (∀ f : Fin 4, f.val < F → t.limits.at f = w (32 + 8 * P + 8 * H + 4 * R + 2 * f.val))
      ∧ ∀ b : Fin 48,
          let x (i : Nat) : Nat := w (32 + 8 * P + 8 * H + 4 * R + 2 * F + 2 * b.val + i)
          (t.bands.at b).floor = x 0 ∧ (t.bands.at b).cap = x 1

/-- INDEX_STALL: with no master cycle in flight the stall is granted to a reload in its INDEX phase, and the read of the
submit word at the staged image's address follows (R160, R4). INDEX_READ of the submit word records its value, and the
read of the take word follows (R4). A reload's take word read by MEMORY_ACKNOWLEDGE leaves the completion event standing:
the loader enters COMPLETE and nothing else changes (R176); that this row shows that order of events is log 23. -/
def Obligations.IndexStallAndSubmitRead : Prop :=
  (∀ s : State, s.iml.kind = .reload → s.iml.phase = .index → s.bpu.indexStall = false → s.bpu.upstream = none →
      exec .indexStall s = .next (grant (s.setBpu { s.bpu with indexStall := true }))
      ∧ (s.bpu.resetn = false → s.iml.indexSubmit = none → s.bpu.memPort = none →
        exec .indexStall s = .next (s.setBpu { s.bpu with
          indexStall := true
          memPort := fetchAt s (BitVec.ofNat 20
            ((s.iml.staging.getD 3 0).toNat + (s.iml.staging.getD 4 0).toNat % 16 * 65536))
          lastGrant := .loader })))
  ∧
  (∀ (v : Word) (s : State), LoaderReads s → s.iml.phase = .index → s.iml.indexSubmit = none →
      exec (.indexRead v) s = .next (grant
        ((s.setIml { s.iml with indexSubmit := some v }).setBpu { s.bpu with memPort := none }))
      ∧ (s.bpu.resetn = false → NoMasterWaits s → (s.iml.kind = .powerOn ∨ s.bpu.indexStall = true) →
        exec (.indexRead v) s = .next ((s.setIml { s.iml with indexSubmit := some v }).setBpu { s.bpu with
          memPort := fetchAt s (BitVec.ofNat 20
            ((s.iml.staging.getD 5 0).toNat + (s.iml.staging.getD 6 0).toNat % 16 * 65536))
          lastGrant := .loader })))
  ∧
  (∀ (v b : Word) (s : State), LoaderReads s → s.iml.phase = .index → s.iml.indexSubmit = some b →
      s.iml.kind = .reload →
        exec (.memoryAcknowledge v) s = .next ((s.setIml { s.iml with indexTake := some v, phase := .complete }).setBpu
          { s.bpu with memPort := none }))

/-- INDEX_READ of the take word completes a power-on load (R173, R177): the tables, the timeout, the indexes S and T, N
FREE entries, allowances, HOLD, image reason none; no flag, no pass, the clock and the capture as they stood; then the
stalled cycle is decoded and the port granted (R159). That a power-on load's completion falls in the step of its second
read is log 23, that the stalled cycle is decoded in the same step log 10, that a load keeps the raise sequence log 25, and what
the loader's sum and next fetch address hold in IDLE log 30. -/
def Obligations.PowerOnLoadCompletes : Prop :=
  ∀ (v b : Word) (s : State), LoaderReads s → s.iml.phase = .index → s.iml.kind = .powerOn →
    s.iml.indexSubmit = some b →
      let new := parseTables s.iml.staging
      ∃ x, exec (.indexRead v) s = .next (grant (endStall x))
        ∧ x.tables = some new
        ∧ x.rt = { submit := b, reclaim := b, release := v, take := v, list := [] }
        ∧ (∀ k, x.ob.at k = Entry.reset) ∧ (∀ g, x.psu.groups.at g = .quiet)
        ∧ (s.tables = none → ∀ p, x.psu.pumps.at p = { PumpRec.reset with
            allowance := if configured new p = true then (new.pumps.at p).startsPerHour else 0 })
        ∧ (∀ h, x.rsu.houses.at h = HouseRec.reset) ∧ (∀ r, x.rsu.levels.at r = none)
        ∧ (s.tables = none → ∀ p, x.rsu.runningBits.at p = false ∧ x.rsu.faultBits.at p = false)
        ∧ x.rsu.duplicates = s.rsu.duplicates ∧ x.rsu.incompletes = s.rsu.incompletes
        ∧ (∀ e, x.ilu.store.at e = .free) ∧ (∀ p, x.ilu.owed.at p = none) ∧ x.ilu.nextSeq = s.ilu.nextSeq
        ∧ x.iml = idleLoader .none
        ∧ x.csu = { s.csu with sched := .hold } ∧ x.cbu = s.cbu ∧ x.ra = s.ra
        ∧ x.bpu = { s.bpu with memPort := none, indexStall := false, timeout := new.timeout }

/-- A reload takes its completion event (R176) with INDEX_READ of the take word, or, after other events, within the stall from
COMPLETE, where INDEX_STALL takes it (log 23): the quiet re-check, the plant check of R47, then the swap (R177),
RELOAD_DONE, DONE, HOLD and one pass; a failure leaves the old tables and indexes in force, REJECTED and IMAGE_REJECTED,
in the origin state, HOLD or UNLOADED (R178). Then the held cycle is decoded and the port granted (R160). That
it is decoded in the same step is log 10, that a load keeps the raise sequence log 25, and what the loader's origin
state, sum and next fetch address hold in IDLE log 30. -/
def Obligations.ReloadCompletes : Prop :=
  ∀ (c : Instr) (v b : Word) (s : State),
    ((c = .indexRead v ∧ LoaderReads s ∧ s.iml.phase = .index ∧ s.iml.indexSubmit = some b)
      ∨ (c = .indexStall ∧ s.bpu.memPort = none ∧ s.iml.phase = .complete ∧ s.iml.indexSubmit = some b
          ∧ s.iml.indexTake = some v)) →
    s.iml.kind = .reload →
      let new := parseTables s.iml.staging
      let had (p : Fin 32) : Prop := ∃ old, s.tables = some old ∧ configured old p = true
      let mismatch := ∃ old p, s.tables = some old ∧ configured old p = true ∧ (s.psu.pumps.at p).state ≠ .stopped
        ∧ (configured new p = false ∨ (new.pumps.at p).house ≠ (old.pumps.at p).house
            ∨ (new.pumps.at p).feeder ≠ (old.pumps.at p).feeder)
      let cap := (new.bands.at s.cbu.band).cap
      let hit : Bool := decide (cap ≠ 0 ∧ cap * 16 ≤ s.cbu.tally)
      (¬ Quiet s → exec c s = .next (loadFailed .notQuiet s))
      ∧ (Quiet s → mismatch → exec c s = .next (loadFailed .plantMismatch s))
      ∧ (Quiet s → ¬ mismatch →
        ∃ x, exec c s = .next (grant (endStall x))
          ∧ x.tables = some new
          ∧ x.rt = { submit := b, reclaim := b, release := v, take := v, list := [] }
          ∧ (∀ k, x.ob.at k = Entry.reset)
          ∧ (∀ p, had p → configured new p = true →
              x.psu.pumps.at p = { s.psu.pumps.at p with allowance := (new.pumps.at p).startsPerHour }
              ∧ x.rsu.runningBits.at p = s.rsu.runningBits.at p ∧ x.rsu.faultBits.at p = s.rsu.faultBits.at p)
          ∧ (∀ p, ¬ (had p ∧ configured new p = true) →
              x.psu.pumps.at p = { PumpRec.reset with
                allowance := if configured new p = true then (new.pumps.at p).startsPerHour else 0 }
              ∧ x.rsu.runningBits.at p = false ∧ x.rsu.faultBits.at p = false)
          ∧ (∀ g, x.psu.groups.at g = .quiet) ∧ (∀ e, x.ilu.store.at e = .free) ∧ (∀ p, x.ilu.owed.at p = none)
          ∧ x.ilu.nextSeq = s.ilu.nextSeq
          ∧ (∀ h, x.rsu.houses.at h = HouseRec.reset) ∧ (∀ r, x.rsu.levels.at r = none)
          ∧ x.rsu.duplicates = s.rsu.duplicates ∧ x.rsu.incompletes = s.rsu.incompletes
          ∧ x.csu = { s.csu with
              sched := .hold
              status := { code := 3, outcome := .done, reason := .none }
              flags := (if hit && !s.cbu.capReached then flagsWith s .energyCap else s.csu.flags)
                ||| flagMask .reloadDone }
          ∧ x.ra.requests = s.ra.requests + 1 ∧ x.iml = idleLoader .none
          ∧ x.cbu = { s.cbu with capReached := hit }
          ∧ x.bpu = { s.bpu with memPort := none, indexStall := false, timeout := new.timeout })

/-! ### Commands, sweeps and the status block -/

/-- R184: an accepted RUN sets the scheduler state to RUN and requests a release pass, and changes no order, pump, group
or index by itself; in RUN no order is held HELD; RUN in HOLD with the clock not set is refused CLOCK_NOT_SET, and in RUN,
UNLOADED or RELOADING BAD_STATE. In HOLD during a sweep it is refused BUSY (R182). -/
def Obligations.RunCommand : Prop :=
  (∀ s : State, Accepting s →
    (s.csu.sweep.kind = .none → s.csu.sched = .hold → s.cbu.clockSet = true →
      exec .run s = .next (((acknowledged s).setCsu { s.csu with
          sched := .run
          commandWord := 1
          status := { code := 1, outcome := .done, reason := .none } }).setRa { requests := s.ra.requests + 1 }))
    ∧ (s.csu.sweep.kind = .none → s.csu.sched = .hold → s.cbu.clockSet = false →
        exec .run s = .next (refusedCommand 1 .clockNotSet s))
    ∧ TurnedAway .run 1 (fun x => x = .hold) s)
  ∧ ∀ (t : Tables) (s : State) (k : Fin 64) (o : Order), s.csu.sched = .run → judgeHost t s k o ≠ .hold .held

/-- HOLD is accepted in HOLD and RUN and requests no pass; elsewhere it is refused BAD_STATE (R185), and during a sweep
BUSY (R182). A value that names no command is refused BAD_ARGUMENT in every state (R182, UNKNOWN_COMMAND). -/
def Obligations.HoldAndUnknownCommand : Prop :=
  ∀ s : State, Accepting s →
    (s.csu.sweep.kind = .none → s.csu.sched = .hold ∨ s.csu.sched = .run →
      exec .hold s = .next ((acknowledged s).setCsu { s.csu with
        sched := .hold
        commandWord := 2
        status := { code := 2, outcome := .done, reason := .none } }))
    ∧ TurnedAway .hold 2 (fun x => x = .hold ∨ x = .run) s
    ∧ ∀ code : Word, code = 0 ∨ 8 ≤ code.toNat →
        exec (.unknownCommand code) s = .next (refusedCommand code .badArgument s)

/-- RELOAD from UNLOADED, or from HOLD when the plant is quiet, is accepted and the first fetch read is granted; from HOLD
when it is not, it is refused NOT_QUIET (R174). In RUN and RELOADING it is refused BAD_STATE, whatever the memory port
carries, and during a sweep otherwise BUSY (R182). -/
def Obligations.ReloadCommand : Prop :=
  ∀ s : State, Accepting s →
    let begun (origin : LoadOrigin) : State :=
      (((acknowledged s).setBpu { s.bpu with
          ending := .ack none
          memPort := fetchAt s (BitVec.ofNat 20 (s.bpu.imgsel.toNat * 65536))
          lastGrant := .loader }).setIml
        { kind := .reload, phase := .header, origin := some origin, nextFetch := 0, sum := 0, staging := [],
          indexSubmit := none, indexTake := none, reason := s.iml.reason }).setCsu { s.csu with
          sched := .reloading
          commandWord := 3
          status := { code := 3, outcome := .accepted, reason := .none } }
    TurnedAway .reload 3 (fun x => x = .hold ∨ x = .unloaded) s
    ∧ (s.csu.sweep.kind = .none →
      (s.csu.sched = .hold → ¬ Quiet s → exec .reload s = .next (refusedCommand 3 .notQuiet s))
      ∧ (s.bpu.memPort = none → s.csu.sched = .hold → Quiet s → exec .reload s = .next (begun .hold))
      ∧ (s.bpu.memPort = none → s.csu.sched = .unloaded → exec .reload s = .next (begun .unloaded)))

/-- An accepted SET_TIME for hh:mm:ss sets now within the current day, restarts the divider, sets the clock-set flag, the
band, the tally and the cap-reached flag, and raises CLOCK_SET; it requests no pass and changes nothing else (R142).
Outside HOLD it is refused BAD_STATE, and in HOLD during a sweep BUSY, whatever its arguments (R182). -/
def Obligations.SetTimeCommand : Prop :=
  ∀ s : State, Accepting s →
    (∀ h m sec : Nat, s.csu.sweep.kind = .none → s.csu.sched = .hold → h < 24 → m < 60 → sec < 60 →
      s.csu.arguments.at 0 = BitVec.ofNat 16 ((h / 10 * 16 + h % 10) * 256 + (m / 10 * 16 + m % 10)) →
      (s.csu.arguments.at 1).toNat % 256 = sec / 10 * 16 + sec % 10 →
        exec .setTime s = .next (((acknowledged s).setCbu
            { clockSet := true, now := s.cbu.now / 86400 * 86400 + (h * 3600 + m * 60 + sec), divider := 0,
              band := Fin.ofNat 48 (h * 2 + m / 30), tally := 0, capReached := false }).setCsu { s.csu with
            commandWord := 4
            status := { code := 4, outcome := .done, reason := .none }
            flags := flagsWith s .clockSet }))
    ∧ TurnedAway .setTime 4 (fun x => x = .hold) s

/-- R141: the arguments of SET_TIME are valid when the six digits name a time of day; a SET_TIME whose arguments are not
valid is refused BAD_ARGUMENT, and the clock and CLOCK_SET stay as they stood. -/
def Obligations.SetTimeArgumentsJudged : Prop :=
  (∀ a b : Word,
    ((setTimeArgument a b).isSome = true ↔ (timeField a).isSome = true ∧ (b / 16 % 16).toNat ≤ 9 ∧ (b % 16).toNat ≤ 9
      ∧ (b / 16 % 16).toNat * 10 + (b % 16).toNat ≤ 59)
    ∧ ((timeField a).isSome = true ↔ (a / 4096).toNat ≤ 9 ∧ (a / 256 % 16).toNat ≤ 9 ∧ (a / 16 % 16).toNat ≤ 9
        ∧ (a % 16).toNat ≤ 9 ∧ (a / 4096).toNat * 10 + (a / 256 % 16).toNat ≤ 23
        ∧ (a / 16 % 16).toNat * 10 + (a % 16).toNat ≤ 59))
  ∧ ∀ s : State, CommandFree s → s.csu.sched = .hold →
      setTimeArgument (s.csu.arguments.at 0) (s.csu.arguments.at 1) = none →
        exec .setTime s = .next (refusedCommand 4 .badArgument s)

/-- CANCEL_TAG and WITHDRAW_HOUSE accepted in HOLD or RUN (R188): the matching WAITING entries are marked, the walk runs
from reclaim to submit, the missed counter is 0; on an empty range the sweep ends in the same event (R191). A house that
is not configured is refused BAD_ARGUMENT (R188). Outside HOLD and RUN both are refused BAD_STATE, and during a sweep
BUSY, whatever their argument (R182). -/
def Obligations.SweepCommands : Prop :=
  (∀ (s : State) (t : Tables), CommandFree s → s.tables = some t → s.csu.sched = .hold ∨ s.csu.sched = .run →
    let key := s.csu.arguments.at 0
    let started (kind : SweepKind) (code : Word) (hits : Order → Bool) : State :=
      ((acknowledged s).setOb (Tab.ofFn fun k =>
        if (waitingOrder (s.ob.at k)).any hits then { s.ob.at k with mark := true } else s.ob.at k)).setCsu
        (if s.rt.reclaim = s.rt.submit then { s.csu with
            commandWord := code
            status := { code, outcome := .done, reason := .none }
            sweep := { kind := .none, key, next := s.rt.reclaim, last := s.rt.submit }
            flags := flagsWith s .sweepDone
            missed := 0 }
          else { s.csu with
            commandWord := code
            status := { code, outcome := .accepted, reason := .none }
            sweep := { kind, key, next := s.rt.reclaim, last := s.rt.submit }
            missed := 0 })
    exec .cancelTag s = .next (started .cancelTag 5 fun o => o.tag == key)
    ∧ (key.toNat < t.map.houseCount.val →
        exec .withdrawHouse s =
          .next (started .withdrawHouse 6 fun o => (t.pumps.at o.pump).house.val == key.toNat))
    ∧ (t.map.houseCount.val ≤ key.toNat → exec .withdrawHouse s = .next (refusedCommand 6 .badArgument s)))
  ∧ ∀ s : State, Accepting s →
      TurnedAway .cancelTag 5 (fun x => x = .hold ∨ x = .run) s
      ∧ TurnedAway .withdrawHouse 6 (fun x => x = .hold ∨ x = .run) s

/-- SWEEP_VISIT: an entry that is not WAITING and marked is passed over; one that is becomes CANCELLED with the sweep's
reason, and a pass is requested; the next index rises, and the sweep ends at its end index (R189, R191). -/
def Obligations.SweepVisitTaken : Prop :=
  ∀ (s : State) (t : Tables), s.tables = some t → s.csu.sweep.kind ≠ .none → s.csu.sweep.next ≠ s.csu.sweep.last →
    let k := slotOf t.map.ringSize s.csu.sweep.next
    let e := s.ob.at k
    let moved : Csu :=
      if s.csu.sweep.next + 1 = s.csu.sweep.last then { s.csu with
          sweep := { s.csu.sweep with kind := .none, next := s.csu.sweep.next + 1 }
          status := { code := if s.csu.sweep.kind = .cancelTag then 5 else 6, outcome := .done, reason := .none }
          flags := flagsWith s .sweepDone }
        else { s.csu with sweep := { s.csu.sweep with next := s.csu.sweep.next + 1 } }
    (¬ (e.state = .waiting ∧ e.mark = true) → exec .sweepVisit s = .next (s.setCsu moved))
    ∧ (e.state = .waiting → e.mark = true →
      ∃ x, exec .sweepVisit s = .next x
        ∧ (x.ob.at k = { e with
              state := .cancelled
              reason := if s.csu.sweep.kind = .cancelTag then .tagSweep else .houseWithdrawn
              mark := false }
            ∨ x.ob.at k = Entry.reset)
        ∧ (∀ j, j ≠ k → x.ob.at j = s.ob.at j ∨ (finished (s.ob.at j).state = true ∧ x.ob.at j = Entry.reset))
        ∧ x.ra.requests = s.ra.requests + 1 ∧ x.csu = moved
        ∧ x.rt.submit = s.rt.submit ∧ x.rt.take = s.rt.take ∧ x.rt.release = s.rt.release ∧ x.rt.list = s.rt.list
        ∧ x.bpu = s.bpu ∧ x.tables = s.tables ∧ x.psu = s.psu ∧ x.rsu = s.rsu ∧ x.ilu = s.ilu ∧ x.cbu = s.cbu
        ∧ x.iml = s.iml)

/-- CLEAR_LOCKOUT for a pump in LOCKOUT ends the lockout by the reported running bit and requests a pass (R59, R186); a
pump that stops so loses its stop-owed flag (R122). For any other argument it is refused BAD_ARGUMENT. Outside HOLD and RUN
it is refused BAD_STATE, and during a sweep BUSY, whatever its argument (R182). -/
def Obligations.ClearLockoutCommand : Prop :=
  (∀ (s : State) (t : Tables) (p : Fin 32), CommandFree s → s.tables = some t →
    s.csu.sched = .hold ∨ s.csu.sched = .run →
    let n := (s.csu.arguments.at 0).toNat
    let r := s.psu.pumps.at p
    let running := s.rsu.runningBits.at p
    let cleared : PumpRec :=
      if running then { r with
          state := .running, lock := .none, minRun := some ((s.cbu.now + (t.pumps.at p).minRun) % 4294944000) }
      else { r with state := .stopped, lock := .none, rest := some s.cbu.now }
    (n = p.val → p.val < t.pumpCount.val → r.state = .lockout →
      exec .clearLockout s = .next (((((acknowledged s).setCsu { s.csu with
          commandWord := 7
          status := { code := 7, outcome := .done, reason := .none } }).setPsu
        { s.psu with pumps := s.psu.pumps.put p cleared }).setIlu
        { s.ilu with owed := if running then s.ilu.owed else s.ilu.owed.put p none }).setRa
        { requests := s.ra.requests + 1 }))
    ∧ (t.pumpCount.val ≤ n ∨ (n = p.val ∧ r.state ≠ .lockout) →
        exec .clearLockout s = .next (refusedCommand 7 .badArgument s)))
  ∧ ∀ s : State, Accepting s → TurnedAway .clearLockout 7 (fun x => x = .hold ∨ x = .run) s

/-- FLAG_CLEAR_WRITE, ENABLE_WRITE, COUNTER_CLEAR and ARGUMENT_WORD_WRITE: each changes its own words, ends with UACK, and
changes nothing else (R192, R193, R194, R181). A read of status block word w by the host or the panel, full or partial, is
answered with word w built from the owners' state (R155, R195), laid out by 11.6 with the codes of 11.8: every bit of no
field reads 0, the command code shows 255 above 255 (R196), and a pump or feeder not configured reads 0 (R72, R66).
ALERT is asserted exactly while a flag is set with its enable at 1 and RESETN is not asserted (R193). -/
def Obligations.StatusBlockWrites : Prop :=
  (∀ (s : State) (v : Word), Accepting s →
    exec (.flagClearWrite v) s =
        .next ((acknowledged s).setCsu { s.csu with flags := s.csu.flags &&& ~~~(v.truncate 15) })
    ∧ exec (.enableWrite v) s = .next ((acknowledged s).setCsu { s.csu with enables := v.truncate 15 })
    ∧ exec (.counterClear .duplicate v) s = .next ((acknowledged s).setRsu { s.rsu with duplicates := 0 })
    ∧ exec (.counterClear .incomplete v) s = .next ((acknowledged s).setRsu { s.rsu with incompletes := 0 })
    ∧ exec (.counterClear .missed v) s = .next ((acknowledged s).setCsu { s.csu with missed := 0 })
    ∧ ∀ n, exec (.argumentWordWrite n v) s =
        .next ((acknowledged s).setCsu { s.csu with arguments := s.csu.arguments.put n v }))
  ∧
  (∀ (c : Cycle) (s : State) (w : Nat), Accepting s → StatusBlockWord s c.addr w → c.write = false →
    c.init = .host ∨ c.init = .panel → Answered c s (statusBlockWord s w))
  ∧
  (∀ s : State,
    let W (w : Nat) : Nat := (statusBlockWord s w).toNat
    let bit (b : Bool) : Nat := if b then 1 else 0
    let now := s.cbu.now
    let orders (st : EntryState) : Nat := (List.finRange 64).countP fun k => (s.ob.at k).state == st
    W 0 = schedCode s.csu.sched + imageReasonCode s.iml.reason * 16 + sweepKindCode s.csu.sweep.kind * 256
    ∧ statusBlockWord s 1 = s.csu.commandWord
    ∧ (∀ n : Fin 3, statusBlockWord s (2 + n.val) = s.csu.arguments.at n)
    ∧ W 5 = min s.csu.status.code.toNat 255 + outcomeCode s.csu.status.outcome * 256
        + commandReasonCode s.csu.status.reason * 4096
    ∧ W 6 = s.csu.flags.toNat ∧ W 7 = s.csu.enables.toNat
    ∧ W 8 = now % 86400 / 36000 * 4096 + now % 86400 / 3600 % 10 * 256 + now % 3600 / 600 * 16 + now % 3600 / 60 % 10
    ∧ W 9 = now % 60 / 10 * 16 + now % 60 % 10 + s.cbu.band.val * 256 + bit s.cbu.capReached * 16384
        + bit s.cbu.clockSet * 32768
    ∧ (now < 4294944000 → W 10 = now / 86400)
    ∧ (s.cbu.tally ≤ 16777215 → W 11 + W 12 * 65536 = s.cbu.tally ∧ W 12 < 256)
    ∧ statusBlockWord s 13 = s.rt.submit ∧ statusBlockWord s 14 = s.rt.reclaim
    ∧ statusBlockWord s 15 = s.rt.release ∧ statusBlockWord s 16 = s.rt.take
    ∧ W 17 = orders .waiting + orders .released * 256
    ∧ (∀ e : Fin 8, W 18 / 4 ^ e.val % 4 =
        match s.ilu.store.at e with
        | .free => 0
        | .waiting _ => 1
        | .released _ _ => 2)
    ∧ (∀ h : Fin 12, W 19 / 2 ^ h.val % 2 = bit (s.rsu.houses.at h).localControl)
    ∧ W 19 / 4096 = (List.finRange 8).countP fun e => s.ilu.store.at e != .free
    ∧ (∀ g : Fin 8, W 20 / 4 ^ g.val % 4 =
        match s.psu.groups.at g with
        | .quiet => 0
        | .armed _ _ => 1
        | .guard _ _ _ => 2)
    ∧ W 21 = faultKindCode s.bpu.capture.kind + initiatorCode s.bpu.capture.init * 16
        + faultCauseCode s.bpu.capture.cause * 256 + s.bpu.capture.addr.toNat / 65536 * 4096
    ∧ W 22 = s.bpu.capture.addr.toNat % 65536
    ∧ statusBlockWord s 23 = s.rsu.duplicates ∧ statusBlockWord s 24 = s.rsu.incompletes
    ∧ statusBlockWord s 25 = s.csu.missed
    ∧ (∀ h : Fin 12, (if h.val < 8 then W 26 / 4 ^ h.val else W 27 / 4 ^ (h.val - 8)) % 4 =
        match (s.rsu.houses.at h).freshness with
        | .never => 0
        | .fresh _ => 1
        | .stale => 2)
    ∧ W 27 < 256
    ∧ (∀ f : Fin 4, W (28 + f.val) =
        match s.tables with
        | some t => if f.val < t.feederCount.val then committedLoad t s f % 65536 else 0
        | none => 0)
    ∧ (∀ p : Fin 32, (∀ t, s.tables = some t → configured t p = false) → W (32 + p.val) = 0)
    ∧ ∀ (p : Fin 32) (t : Tables), s.tables = some t → configured t p = true →
        let r := s.psu.pumps.at p
        waitingCount s p ≤ 2 → r.allowance ≤ 15 →
          W (32 + p.val) = pumpStateCode r.state + lockReasonCode r.lock * 8 + waitingCount s p * 32
            + r.allowance * 128 + bit (s.rsu.runningBits.at p) * 2048 + bit (s.rsu.faultBits.at p) * 4096
            + bit (s.ilu.owed.at p).isSome * 8192 + bit r.started * 16384)
  ∧
  (∀ s : State, alert s = true ↔ s.bpu.resetn = false
    ∧ ∃ i, i < 15 ∧ s.csu.flags.getLsbD i = true ∧ s.csu.enables.getLsbD i = true)
  ∧
  (List.map entryStateCode [.free, .waiting, .released, .dispatched, .refused, .cancelled, .expired]
      = [0, 1, 2, 3, 4, 5, 6]
    ∧ List.map reasonCode [.none, .pending, .held, .queue, .notYet, .pumpBusy, .lockout, .stale, .rest, .allowance,
        .localControl, .guard, .interlock, .load, .level, .floor, .cap, .room, .minRun]
      = [0, 1, 2, 3, 4, 5, 6, 7, 8, 9, 10, 11, 12, 13, 14, 15, 16, 17, 18]
    ∧ List.map reasonCode [.clockNotSet, .incomplete, .badForm, .badAction, .badPump, .badTime, .badField, .tooLate,
        .queueFull, .alreadyRunning, .notRunning, .lockedOut, .hostCancel, .tagSweep, .houseWithdrawn]
      = [32, 33, 34, 35, 36, 37, 38, 39, 40, 48, 49, 50, 56, 57, 58]
    ∧ List.map causeCode [.lowSuction, .highDelivery, .fault, .timed] = [1, 2, 3, 4]
    ∧ List.map pumpStateCode [.unknown, .stopped, .startSent, .starting, .running, .stopSent, .stopping, .lockout]
      = [0, 1, 2, 3, 4, 5, 6, 7]
    ∧ List.map lockReasonCode [.none, .fault, .noStartConfirm, .noStopConfirm] = [0, 1, 2, 3]
    ∧ List.map schedCode [.loading, .unloaded, .hold, .run, .reloading] = [0, 1, 2, 3, 4]
    ∧ List.map imageReasonCode [.none, .busTimeout, .format, .length, .checksum, .range, .overlap, .topology,
        .plantMismatch, .notQuiet] = [0, 1, 2, 3, 4, 5, 6, 7, 8, 9]
    ∧ List.map sweepKindCode [.none, .cancelTag, .withdrawHouse] = [0, 1, 2]
    ∧ List.map outcomeCode [.done, .accepted, .refused, .rejected] = [0, 1, 2, 3]
    ∧ List.map commandReasonCode [.none, .badState, .busy, .badArgument, .notQuiet, .clockNotSet]
      = [0, 1, 2, 3, 4, 5]
    ∧ List.map faultKindCode [.none, .protectViolation, .indexFault, .busTimeout] = [0, 1, 2, 3]
    ∧ List.map faultCauseCode [.none, .initiator, .access, .width, .state, .advance, .submitted, .badRequest, .stray,
        .timeout] = [0, 1, 2, 3, 4, 5, 6, 7, 8, 9]
    ∧ List.map initiatorCode [.host, .link, .panel, .other] = [0, 1, 2, 3]
    ∧ List.map flagPosition [.imageRejected, .reloadDone, .orderRefused, .orderExpired, .lateCancel, .trip, .noConfirm,
        .unexpectedState, .houseStale, .energyCap, .sweepDone, .protectViolation, .indexFault, .busTimeout, .clockSet]
      = [0, 1, 2, 3, 4, 5, 6, 7, 8, 9, 10, 11, 12, 13, 14])

/-! ### Invariants -/

/-- The RESETN condition satisfies every invariant of the part. -/
def Obligations.ResetIsSound : Prop :=
  ClockSound State.reset ∧ PumpsSound State.reset ∧ StoreSound State.reset ∧ QueuesSound State.reset
    ∧ BusSound State.reset ∧ ReleaseListSound State.reset ∧ SlotsSound State.reset

/-- Every step keeps the clock in its ranges, the band in agreement with the time of day, and the values that stand until
the clock is set (R133, R134, R136, R140). -/
def Obligations.StepKeepsClock : Prop := ∀ s t : State, ClockSound s → step s = .next t → ClockSound t

/-- Every step keeps every pump record in the ranges of R45, and the records of pumps not configured in their RESETN
condition (R44, R64). -/
def Obligations.StepKeepsPumpRecords : Prop := ∀ s t : State, PumpsSound s → step s = .next t → PumpsSound t

/-- Every step keeps the internal store: never two entries for one pump, no stop owed for a pump that holds an entry
(R115, R122). -/
def Obligations.StepKeepsInternalStore : Prop := ∀ s t : State, StoreSound s → step s = .next t → StoreSound t

/-- No step makes a third host order WAITING for a pump (R36). -/
def Obligations.StepKeepsQueuesWithinTwo : Prop := ∀ s t : State, QueuesSound s → step s = .next t → QueuesSound t

/-- Every step keeps the bus, the loader and the scheduler state in agreement (R147, R148, R159 to R161, R168, R176, R180):
in COMPLETE a reload stands with both index values and the stall granted. That a power-on load never stands in COMPLETE
between two steps is log 23, that load kind none stands while RESETN is asserted log 1, that the origin state is absent after a reload
log 30. -/
def Obligations.StepKeepsBus : Prop := ∀ s t : State, BusSound s → step s = .next t → BusSound t

/-- Every step keeps the release list: one entry for each position in [take, release), at most N; each entry agrees with
the one order RELEASED that it names, in grant time too, and each RELEASED order holds exactly one position (R12, R13);
the group of a RELEASED order is ARMED with that order's position, so that no group has two and none has one in GUARD
(R68). The premise SlotsSound rules out states in which a submit write would admit a slot that is not FREE. -/
def Obligations.StepKeepsReleaseList : Prop :=
  ∀ s t : State, BusSound s → SlotsSound s → ReleaseListSound s → step s = .next t → ReleaseListSound t

/-- Every step keeps the ring: a slot is FREE exactly when its submission index lies outside [reclaim, submit), which
holds at most N, and reclaim stands at an unfinished order or at submit (R11). -/
def Obligations.StepKeepsSlots : Prop :=
  ∀ s t : State, BusSound s → SlotsSound s → step s = .next t → SlotsSound t

end
end

