-- ==== Sys2Proof/Laws/State.lean ====
section
/-! SUPPORT. Each update of one block, read field by field. -/

namespace Sys2Proof.Machine

@[simp] theorem State.setBpu_bpu (s : State) x : (s.setBpu x).bpu = x := rfl
@[simp] theorem State.setBpu_tables (s : State) x : (s.setBpu x).tables = s.tables := rfl
@[simp] theorem State.setBpu_rt (s : State) x : (s.setBpu x).rt = s.rt := rfl
@[simp] theorem State.setBpu_ob (s : State) x : (s.setBpu x).ob = s.ob := rfl
@[simp] theorem State.setBpu_ra (s : State) x : (s.setBpu x).ra = s.ra := rfl
@[simp] theorem State.setBpu_psu (s : State) x : (s.setBpu x).psu = s.psu := rfl
@[simp] theorem State.setBpu_rsu (s : State) x : (s.setBpu x).rsu = s.rsu := rfl
@[simp] theorem State.setBpu_ilu (s : State) x : (s.setBpu x).ilu = s.ilu := rfl
@[simp] theorem State.setBpu_cbu (s : State) x : (s.setBpu x).cbu = s.cbu := rfl
@[simp] theorem State.setBpu_iml (s : State) x : (s.setBpu x).iml = s.iml := rfl
@[simp] theorem State.setBpu_csu (s : State) x : (s.setBpu x).csu = s.csu := rfl
@[simp] theorem State.setBpu_pending (s : State) x : (s.setBpu x).pending = s.pending := rfl

@[simp] theorem State.setTables_bpu (s : State) x : (s.setTables x).bpu = s.bpu := rfl
@[simp] theorem State.setTables_tables (s : State) x : (s.setTables x).tables = x := rfl
@[simp] theorem State.setTables_rt (s : State) x : (s.setTables x).rt = s.rt := rfl
@[simp] theorem State.setTables_ob (s : State) x : (s.setTables x).ob = s.ob := rfl
@[simp] theorem State.setTables_ra (s : State) x : (s.setTables x).ra = s.ra := rfl
@[simp] theorem State.setTables_psu (s : State) x : (s.setTables x).psu = s.psu := rfl
@[simp] theorem State.setTables_rsu (s : State) x : (s.setTables x).rsu = s.rsu := rfl
@[simp] theorem State.setTables_ilu (s : State) x : (s.setTables x).ilu = s.ilu := rfl
@[simp] theorem State.setTables_cbu (s : State) x : (s.setTables x).cbu = s.cbu := rfl
@[simp] theorem State.setTables_iml (s : State) x : (s.setTables x).iml = s.iml := rfl
@[simp] theorem State.setTables_csu (s : State) x : (s.setTables x).csu = s.csu := rfl
@[simp] theorem State.setTables_pending (s : State) x : (s.setTables x).pending = s.pending := rfl

@[simp] theorem State.setRt_bpu (s : State) x : (s.setRt x).bpu = s.bpu := rfl
@[simp] theorem State.setRt_tables (s : State) x : (s.setRt x).tables = s.tables := rfl
@[simp] theorem State.setRt_rt (s : State) x : (s.setRt x).rt = x := rfl
@[simp] theorem State.setRt_ob (s : State) x : (s.setRt x).ob = s.ob := rfl
@[simp] theorem State.setRt_ra (s : State) x : (s.setRt x).ra = s.ra := rfl
@[simp] theorem State.setRt_psu (s : State) x : (s.setRt x).psu = s.psu := rfl
@[simp] theorem State.setRt_rsu (s : State) x : (s.setRt x).rsu = s.rsu := rfl
@[simp] theorem State.setRt_ilu (s : State) x : (s.setRt x).ilu = s.ilu := rfl
@[simp] theorem State.setRt_cbu (s : State) x : (s.setRt x).cbu = s.cbu := rfl
@[simp] theorem State.setRt_iml (s : State) x : (s.setRt x).iml = s.iml := rfl
@[simp] theorem State.setRt_csu (s : State) x : (s.setRt x).csu = s.csu := rfl
@[simp] theorem State.setRt_pending (s : State) x : (s.setRt x).pending = s.pending := rfl

@[simp] theorem State.setOb_bpu (s : State) x : (s.setOb x).bpu = s.bpu := rfl
@[simp] theorem State.setOb_tables (s : State) x : (s.setOb x).tables = s.tables := rfl
@[simp] theorem State.setOb_rt (s : State) x : (s.setOb x).rt = s.rt := rfl
@[simp] theorem State.setOb_ob (s : State) x : (s.setOb x).ob = x := rfl
@[simp] theorem State.setOb_ra (s : State) x : (s.setOb x).ra = s.ra := rfl
@[simp] theorem State.setOb_psu (s : State) x : (s.setOb x).psu = s.psu := rfl
@[simp] theorem State.setOb_rsu (s : State) x : (s.setOb x).rsu = s.rsu := rfl
@[simp] theorem State.setOb_ilu (s : State) x : (s.setOb x).ilu = s.ilu := rfl
@[simp] theorem State.setOb_cbu (s : State) x : (s.setOb x).cbu = s.cbu := rfl
@[simp] theorem State.setOb_iml (s : State) x : (s.setOb x).iml = s.iml := rfl
@[simp] theorem State.setOb_csu (s : State) x : (s.setOb x).csu = s.csu := rfl
@[simp] theorem State.setOb_pending (s : State) x : (s.setOb x).pending = s.pending := rfl

@[simp] theorem State.setRa_bpu (s : State) x : (s.setRa x).bpu = s.bpu := rfl
@[simp] theorem State.setRa_tables (s : State) x : (s.setRa x).tables = s.tables := rfl
@[simp] theorem State.setRa_rt (s : State) x : (s.setRa x).rt = s.rt := rfl
@[simp] theorem State.setRa_ob (s : State) x : (s.setRa x).ob = s.ob := rfl
@[simp] theorem State.setRa_ra (s : State) x : (s.setRa x).ra = x := rfl
@[simp] theorem State.setRa_psu (s : State) x : (s.setRa x).psu = s.psu := rfl
@[simp] theorem State.setRa_rsu (s : State) x : (s.setRa x).rsu = s.rsu := rfl
@[simp] theorem State.setRa_ilu (s : State) x : (s.setRa x).ilu = s.ilu := rfl
@[simp] theorem State.setRa_cbu (s : State) x : (s.setRa x).cbu = s.cbu := rfl
@[simp] theorem State.setRa_iml (s : State) x : (s.setRa x).iml = s.iml := rfl
@[simp] theorem State.setRa_csu (s : State) x : (s.setRa x).csu = s.csu := rfl
@[simp] theorem State.setRa_pending (s : State) x : (s.setRa x).pending = s.pending := rfl

@[simp] theorem State.setPsu_bpu (s : State) x : (s.setPsu x).bpu = s.bpu := rfl
@[simp] theorem State.setPsu_tables (s : State) x : (s.setPsu x).tables = s.tables := rfl
@[simp] theorem State.setPsu_rt (s : State) x : (s.setPsu x).rt = s.rt := rfl
@[simp] theorem State.setPsu_ob (s : State) x : (s.setPsu x).ob = s.ob := rfl
@[simp] theorem State.setPsu_ra (s : State) x : (s.setPsu x).ra = s.ra := rfl
@[simp] theorem State.setPsu_psu (s : State) x : (s.setPsu x).psu = x := rfl
@[simp] theorem State.setPsu_rsu (s : State) x : (s.setPsu x).rsu = s.rsu := rfl
@[simp] theorem State.setPsu_ilu (s : State) x : (s.setPsu x).ilu = s.ilu := rfl
@[simp] theorem State.setPsu_cbu (s : State) x : (s.setPsu x).cbu = s.cbu := rfl
@[simp] theorem State.setPsu_iml (s : State) x : (s.setPsu x).iml = s.iml := rfl
@[simp] theorem State.setPsu_csu (s : State) x : (s.setPsu x).csu = s.csu := rfl
@[simp] theorem State.setPsu_pending (s : State) x : (s.setPsu x).pending = s.pending := rfl

@[simp] theorem State.setRsu_bpu (s : State) x : (s.setRsu x).bpu = s.bpu := rfl
@[simp] theorem State.setRsu_tables (s : State) x : (s.setRsu x).tables = s.tables := rfl
@[simp] theorem State.setRsu_rt (s : State) x : (s.setRsu x).rt = s.rt := rfl
@[simp] theorem State.setRsu_ob (s : State) x : (s.setRsu x).ob = s.ob := rfl
@[simp] theorem State.setRsu_ra (s : State) x : (s.setRsu x).ra = s.ra := rfl
@[simp] theorem State.setRsu_psu (s : State) x : (s.setRsu x).psu = s.psu := rfl
@[simp] theorem State.setRsu_rsu (s : State) x : (s.setRsu x).rsu = x := rfl
@[simp] theorem State.setRsu_ilu (s : State) x : (s.setRsu x).ilu = s.ilu := rfl
@[simp] theorem State.setRsu_cbu (s : State) x : (s.setRsu x).cbu = s.cbu := rfl
@[simp] theorem State.setRsu_iml (s : State) x : (s.setRsu x).iml = s.iml := rfl
@[simp] theorem State.setRsu_csu (s : State) x : (s.setRsu x).csu = s.csu := rfl
@[simp] theorem State.setRsu_pending (s : State) x : (s.setRsu x).pending = s.pending := rfl

@[simp] theorem State.setIlu_bpu (s : State) x : (s.setIlu x).bpu = s.bpu := rfl
@[simp] theorem State.setIlu_tables (s : State) x : (s.setIlu x).tables = s.tables := rfl
@[simp] theorem State.setIlu_rt (s : State) x : (s.setIlu x).rt = s.rt := rfl
@[simp] theorem State.setIlu_ob (s : State) x : (s.setIlu x).ob = s.ob := rfl
@[simp] theorem State.setIlu_ra (s : State) x : (s.setIlu x).ra = s.ra := rfl
@[simp] theorem State.setIlu_psu (s : State) x : (s.setIlu x).psu = s.psu := rfl
@[simp] theorem State.setIlu_rsu (s : State) x : (s.setIlu x).rsu = s.rsu := rfl
@[simp] theorem State.setIlu_ilu (s : State) x : (s.setIlu x).ilu = x := rfl
@[simp] theorem State.setIlu_cbu (s : State) x : (s.setIlu x).cbu = s.cbu := rfl
@[simp] theorem State.setIlu_iml (s : State) x : (s.setIlu x).iml = s.iml := rfl
@[simp] theorem State.setIlu_csu (s : State) x : (s.setIlu x).csu = s.csu := rfl
@[simp] theorem State.setIlu_pending (s : State) x : (s.setIlu x).pending = s.pending := rfl

@[simp] theorem State.setCbu_bpu (s : State) x : (s.setCbu x).bpu = s.bpu := rfl
@[simp] theorem State.setCbu_tables (s : State) x : (s.setCbu x).tables = s.tables := rfl
@[simp] theorem State.setCbu_rt (s : State) x : (s.setCbu x).rt = s.rt := rfl
@[simp] theorem State.setCbu_ob (s : State) x : (s.setCbu x).ob = s.ob := rfl
@[simp] theorem State.setCbu_ra (s : State) x : (s.setCbu x).ra = s.ra := rfl
@[simp] theorem State.setCbu_psu (s : State) x : (s.setCbu x).psu = s.psu := rfl
@[simp] theorem State.setCbu_rsu (s : State) x : (s.setCbu x).rsu = s.rsu := rfl
@[simp] theorem State.setCbu_ilu (s : State) x : (s.setCbu x).ilu = s.ilu := rfl
@[simp] theorem State.setCbu_cbu (s : State) x : (s.setCbu x).cbu = x := rfl
@[simp] theorem State.setCbu_iml (s : State) x : (s.setCbu x).iml = s.iml := rfl
@[simp] theorem State.setCbu_csu (s : State) x : (s.setCbu x).csu = s.csu := rfl
@[simp] theorem State.setCbu_pending (s : State) x : (s.setCbu x).pending = s.pending := rfl

@[simp] theorem State.setIml_bpu (s : State) x : (s.setIml x).bpu = s.bpu := rfl
@[simp] theorem State.setIml_tables (s : State) x : (s.setIml x).tables = s.tables := rfl
@[simp] theorem State.setIml_rt (s : State) x : (s.setIml x).rt = s.rt := rfl
@[simp] theorem State.setIml_ob (s : State) x : (s.setIml x).ob = s.ob := rfl
@[simp] theorem State.setIml_ra (s : State) x : (s.setIml x).ra = s.ra := rfl
@[simp] theorem State.setIml_psu (s : State) x : (s.setIml x).psu = s.psu := rfl
@[simp] theorem State.setIml_rsu (s : State) x : (s.setIml x).rsu = s.rsu := rfl
@[simp] theorem State.setIml_ilu (s : State) x : (s.setIml x).ilu = s.ilu := rfl
@[simp] theorem State.setIml_cbu (s : State) x : (s.setIml x).cbu = s.cbu := rfl
@[simp] theorem State.setIml_iml (s : State) x : (s.setIml x).iml = x := rfl
@[simp] theorem State.setIml_csu (s : State) x : (s.setIml x).csu = s.csu := rfl
@[simp] theorem State.setIml_pending (s : State) x : (s.setIml x).pending = s.pending := rfl

@[simp] theorem State.setCsu_bpu (s : State) x : (s.setCsu x).bpu = s.bpu := rfl
@[simp] theorem State.setCsu_tables (s : State) x : (s.setCsu x).tables = s.tables := rfl
@[simp] theorem State.setCsu_rt (s : State) x : (s.setCsu x).rt = s.rt := rfl
@[simp] theorem State.setCsu_ob (s : State) x : (s.setCsu x).ob = s.ob := rfl
@[simp] theorem State.setCsu_ra (s : State) x : (s.setCsu x).ra = s.ra := rfl
@[simp] theorem State.setCsu_psu (s : State) x : (s.setCsu x).psu = s.psu := rfl
@[simp] theorem State.setCsu_rsu (s : State) x : (s.setCsu x).rsu = s.rsu := rfl
@[simp] theorem State.setCsu_ilu (s : State) x : (s.setCsu x).ilu = s.ilu := rfl
@[simp] theorem State.setCsu_cbu (s : State) x : (s.setCsu x).cbu = s.cbu := rfl
@[simp] theorem State.setCsu_iml (s : State) x : (s.setCsu x).iml = s.iml := rfl
@[simp] theorem State.setCsu_csu (s : State) x : (s.setCsu x).csu = x := rfl
@[simp] theorem State.setCsu_pending (s : State) x : (s.setCsu x).pending = s.pending := rfl

@[simp] theorem State.setPending_bpu (s : State) x : (s.setPending x).bpu = s.bpu := rfl
@[simp] theorem State.setPending_tables (s : State) x : (s.setPending x).tables = s.tables := rfl
@[simp] theorem State.setPending_rt (s : State) x : (s.setPending x).rt = s.rt := rfl
@[simp] theorem State.setPending_ob (s : State) x : (s.setPending x).ob = s.ob := rfl
@[simp] theorem State.setPending_ra (s : State) x : (s.setPending x).ra = s.ra := rfl
@[simp] theorem State.setPending_psu (s : State) x : (s.setPending x).psu = s.psu := rfl
@[simp] theorem State.setPending_rsu (s : State) x : (s.setPending x).rsu = s.rsu := rfl
@[simp] theorem State.setPending_ilu (s : State) x : (s.setPending x).ilu = s.ilu := rfl
@[simp] theorem State.setPending_cbu (s : State) x : (s.setPending x).cbu = s.cbu := rfl
@[simp] theorem State.setPending_iml (s : State) x : (s.setPending x).iml = s.iml := rfl
@[simp] theorem State.setPending_csu (s : State) x : (s.setPending x).csu = s.csu := rfl
@[simp] theorem State.setPending_pending (s : State) x : (s.setPending x).pending = x := rfl

/-! Of two updates of one block the later stands; putting back what stands changes nothing. -/

@[simp] theorem State.setBpu_setBpu (s : State) x y : (s.setBpu x).setBpu y = s.setBpu y := rfl
@[simp] theorem State.setTables_setTables (s : State) x y : (s.setTables x).setTables y = s.setTables y := rfl
@[simp] theorem State.setRt_setRt (s : State) x y : (s.setRt x).setRt y = s.setRt y := rfl
@[simp] theorem State.setOb_setOb (s : State) x y : (s.setOb x).setOb y = s.setOb y := rfl
@[simp] theorem State.setRa_setRa (s : State) x y : (s.setRa x).setRa y = s.setRa y := rfl
@[simp] theorem State.setPsu_setPsu (s : State) x y : (s.setPsu x).setPsu y = s.setPsu y := rfl
@[simp] theorem State.setRsu_setRsu (s : State) x y : (s.setRsu x).setRsu y = s.setRsu y := rfl
@[simp] theorem State.setIlu_setIlu (s : State) x y : (s.setIlu x).setIlu y = s.setIlu y := rfl
@[simp] theorem State.setCbu_setCbu (s : State) x y : (s.setCbu x).setCbu y = s.setCbu y := rfl
@[simp] theorem State.setIml_setIml (s : State) x y : (s.setIml x).setIml y = s.setIml y := rfl
@[simp] theorem State.setCsu_setCsu (s : State) x y : (s.setCsu x).setCsu y = s.setCsu y := rfl
@[simp] theorem State.setPending_setPending (s : State) x y : (s.setPending x).setPending y = s.setPending y := rfl

@[simp] theorem State.setBpu_self (s : State) : s.setBpu s.bpu = s := rfl
@[simp] theorem State.setTables_self (s : State) : s.setTables s.tables = s := rfl
@[simp] theorem State.setRt_self (s : State) : s.setRt s.rt = s := rfl
@[simp] theorem State.setOb_self (s : State) : s.setOb s.ob = s := rfl
@[simp] theorem State.setRa_self (s : State) : s.setRa s.ra = s := rfl
@[simp] theorem State.setPsu_self (s : State) : s.setPsu s.psu = s := rfl
@[simp] theorem State.setRsu_self (s : State) : s.setRsu s.rsu = s := rfl
@[simp] theorem State.setIlu_self (s : State) : s.setIlu s.ilu = s := rfl
@[simp] theorem State.setCbu_self (s : State) : s.setCbu s.cbu = s := rfl
@[simp] theorem State.setIml_self (s : State) : s.setIml s.iml = s := rfl
@[simp] theorem State.setCsu_self (s : State) : s.setCsu s.csu = s := rfl
@[simp] theorem State.setPending_self (s : State) : s.setPending s.pending = s := rfl

end Sys2Proof.Machine
end

