-- ==== Sys2Proof/Laws/BasicFrames.lean ====
section
/-! SUPPORT. What each operation of the flags, the Pump State Unit and the Interlock Unit leaves as it was: every block it names no change of. -/

namespace Sys2Proof.Machine

@[simp] theorem raiseFlag_keeps (f : EventFlag) (s : State) :
    (raiseFlag f s).bpu = s.bpu ∧ (raiseFlag f s).tables = s.tables ∧ (raiseFlag f s).rt = s.rt ∧
    (raiseFlag f s).ob = s.ob ∧ (raiseFlag f s).ra = s.ra ∧ (raiseFlag f s).psu = s.psu ∧
    (raiseFlag f s).rsu = s.rsu ∧ (raiseFlag f s).ilu = s.ilu ∧ (raiseFlag f s).cbu = s.cbu ∧
    (raiseFlag f s).iml = s.iml ∧ (raiseFlag f s).pending = s.pending := by
  simp [raiseFlag]

@[simp] theorem raiseFlagIf_keeps (b : Bool) (f : EventFlag) (s : State) :
    (raiseFlagIf b f s).bpu = s.bpu ∧ (raiseFlagIf b f s).tables = s.tables ∧ (raiseFlagIf b f s).rt = s.rt ∧
    (raiseFlagIf b f s).ob = s.ob ∧ (raiseFlagIf b f s).ra = s.ra ∧ (raiseFlagIf b f s).psu = s.psu ∧
    (raiseFlagIf b f s).rsu = s.rsu ∧ (raiseFlagIf b f s).ilu = s.ilu ∧ (raiseFlagIf b f s).cbu = s.cbu ∧
    (raiseFlagIf b f s).iml = s.iml ∧ (raiseFlagIf b f s).pending = s.pending := by
  simp only [raiseFlagIf]; (repeat' split) <;> simp

@[simp] theorem clearFlags_keeps (v : Word) (s : State) :
    (clearFlags v s).bpu = s.bpu ∧ (clearFlags v s).tables = s.tables ∧ (clearFlags v s).rt = s.rt ∧
    (clearFlags v s).ob = s.ob ∧ (clearFlags v s).ra = s.ra ∧ (clearFlags v s).psu = s.psu ∧
    (clearFlags v s).rsu = s.rsu ∧ (clearFlags v s).ilu = s.ilu ∧ (clearFlags v s).cbu = s.cbu ∧
    (clearFlags v s).iml = s.iml ∧ (clearFlags v s).pending = s.pending := by
  simp [clearFlags]

@[simp] theorem writeEnables_keeps (v : Word) (s : State) :
    (writeEnables v s).bpu = s.bpu ∧ (writeEnables v s).tables = s.tables ∧ (writeEnables v s).rt = s.rt ∧
    (writeEnables v s).ob = s.ob ∧ (writeEnables v s).ra = s.ra ∧ (writeEnables v s).psu = s.psu ∧
    (writeEnables v s).rsu = s.rsu ∧ (writeEnables v s).ilu = s.ilu ∧ (writeEnables v s).cbu = s.cbu ∧
    (writeEnables v s).iml = s.iml ∧ (writeEnables v s).pending = s.pending := by
  simp [writeEnables]

@[simp] theorem raiseFault_keeps (k : FaultKind) (c : Cycle) (x : FaultCause) (s : State) :
    (raiseFault k c x s).tables = s.tables ∧ (raiseFault k c x s).rt = s.rt ∧ (raiseFault k c x s).ob = s.ob ∧
    (raiseFault k c x s).ra = s.ra ∧ (raiseFault k c x s).psu = s.psu ∧ (raiseFault k c x s).rsu = s.rsu ∧
    (raiseFault k c x s).ilu = s.ilu ∧ (raiseFault k c x s).cbu = s.cbu ∧ (raiseFault k c x s).iml = s.iml ∧
    (raiseFault k c x s).pending = s.pending := by
  simp only [raiseFault]; (repeat' split) <;> simp

@[simp] theorem requestPass_keeps  (s : State) :
    (requestPass s).bpu = s.bpu ∧ (requestPass s).tables = s.tables ∧ (requestPass s).rt = s.rt ∧
    (requestPass s).ob = s.ob ∧ (requestPass s).psu = s.psu ∧ (requestPass s).rsu = s.rsu ∧
    (requestPass s).ilu = s.ilu ∧ (requestPass s).cbu = s.cbu ∧ (requestPass s).iml = s.iml ∧
    (requestPass s).csu = s.csu ∧ (requestPass s).pending = s.pending := by
  simp [requestPass]

@[simp] theorem putEntry_keeps (k : Fin 64) (e : Entry) (s : State) :
    (putEntry k e s).bpu = s.bpu ∧ (putEntry k e s).tables = s.tables ∧ (putEntry k e s).rt = s.rt ∧
    (putEntry k e s).ra = s.ra ∧ (putEntry k e s).psu = s.psu ∧ (putEntry k e s).rsu = s.rsu ∧
    (putEntry k e s).ilu = s.ilu ∧ (putEntry k e s).cbu = s.cbu ∧ (putEntry k e s).iml = s.iml ∧
    (putEntry k e s).csu = s.csu ∧ (putEntry k e s).pending = s.pending := by
  simp [putEntry]

@[simp] theorem clearOwed_keeps (p : Fin 32) (s : State) :
    (clearOwed p s).bpu = s.bpu ∧ (clearOwed p s).tables = s.tables ∧ (clearOwed p s).rt = s.rt ∧
    (clearOwed p s).ob = s.ob ∧ (clearOwed p s).ra = s.ra ∧ (clearOwed p s).psu = s.psu ∧
    (clearOwed p s).rsu = s.rsu ∧ (clearOwed p s).cbu = s.cbu ∧ (clearOwed p s).iml = s.iml ∧
    (clearOwed p s).csu = s.csu ∧ (clearOwed p s).pending = s.pending := by
  simp [clearOwed]

@[simp] theorem putPump_keeps (p : Fin 32) (r : PumpRec) (s : State) :
    (putPump p r s).bpu = s.bpu ∧ (putPump p r s).tables = s.tables ∧ (putPump p r s).rt = s.rt ∧
    (putPump p r s).ob = s.ob ∧ (putPump p r s).ra = s.ra ∧ (putPump p r s).rsu = s.rsu ∧
    (putPump p r s).cbu = s.cbu ∧ (putPump p r s).iml = s.iml ∧ (putPump p r s).csu = s.csu ∧
    (putPump p r s).pending = s.pending := by
  simp only [putPump]; (repeat' split) <;> simp

@[simp] theorem pumpReleased_keeps (p : Fin 32) (a : Action) (n : Nat) (s : State) :
    (pumpReleased p a n s).bpu = s.bpu ∧ (pumpReleased p a n s).tables = s.tables ∧
    (pumpReleased p a n s).rt = s.rt ∧ (pumpReleased p a n s).ob = s.ob ∧ (pumpReleased p a n s).ra = s.ra ∧
    (pumpReleased p a n s).rsu = s.rsu ∧ (pumpReleased p a n s).cbu = s.cbu ∧
    (pumpReleased p a n s).iml = s.iml ∧ (pumpReleased p a n s).csu = s.csu ∧
    (pumpReleased p a n s).pending = s.pending := by
  simp only [pumpReleased]; (repeat' split) <;> simp

@[simp] theorem groupReleased_keeps (t : Tables) (p : Fin 32) (i : Word) (s : State) :
    (groupReleased t p i s).bpu = s.bpu ∧ (groupReleased t p i s).tables = s.tables ∧
    (groupReleased t p i s).rt = s.rt ∧ (groupReleased t p i s).ob = s.ob ∧ (groupReleased t p i s).ra = s.ra ∧
    (groupReleased t p i s).rsu = s.rsu ∧ (groupReleased t p i s).ilu = s.ilu ∧
    (groupReleased t p i s).cbu = s.cbu ∧ (groupReleased t p i s).iml = s.iml ∧
    (groupReleased t p i s).csu = s.csu ∧ (groupReleased t p i s).pending = s.pending := by
  simp only [groupReleased]; (repeat' split) <;> simp

@[simp] theorem pumpDispatched_keeps (t : Tables) (p : Fin 32) (a : Action) (s : State) :
    (pumpDispatched t p a s).bpu = s.bpu ∧ (pumpDispatched t p a s).tables = s.tables ∧
    (pumpDispatched t p a s).rt = s.rt ∧ (pumpDispatched t p a s).ob = s.ob ∧
    (pumpDispatched t p a s).ra = s.ra ∧ (pumpDispatched t p a s).rsu = s.rsu ∧
    (pumpDispatched t p a s).cbu = s.cbu ∧ (pumpDispatched t p a s).iml = s.iml ∧
    (pumpDispatched t p a s).csu = s.csu ∧ (pumpDispatched t p a s).pending = s.pending := by
  simp only [pumpDispatched]; (repeat' split) <;> simp

@[simp] theorem groupDispatched_keeps (t : Tables) (p : Fin 32) (i : Word) (s : State) :
    (groupDispatched t p i s).bpu = s.bpu ∧ (groupDispatched t p i s).tables = s.tables ∧
    (groupDispatched t p i s).rt = s.rt ∧ (groupDispatched t p i s).ob = s.ob ∧
    (groupDispatched t p i s).ra = s.ra ∧ (groupDispatched t p i s).rsu = s.rsu ∧
    (groupDispatched t p i s).ilu = s.ilu ∧ (groupDispatched t p i s).cbu = s.cbu ∧
    (groupDispatched t p i s).iml = s.iml ∧ (groupDispatched t p i s).csu = s.csu ∧
    (groupDispatched t p i s).pending = s.pending := by
  simp only [groupDispatched]; (repeat' split) <;> simp

@[simp] theorem commitPump_keeps (t : Tables) (p : Fin 32) (s : State) :
    (commitPump t p s).bpu = s.bpu ∧ (commitPump t p s).tables = s.tables ∧ (commitPump t p s).rt = s.rt ∧
    (commitPump t p s).ob = s.ob ∧ (commitPump t p s).ra = s.ra ∧ (commitPump t p s).rsu = s.rsu ∧
    (commitPump t p s).cbu = s.cbu ∧ (commitPump t p s).iml = s.iml ∧ (commitPump t p s).pending = s.pending := by
  simp [commitPump]

@[simp] theorem psuBoundary_keeps  (s : State) :
    (psuBoundary s).bpu = s.bpu ∧ (psuBoundary s).tables = s.tables ∧ (psuBoundary s).rt = s.rt ∧
    (psuBoundary s).ob = s.ob ∧ (psuBoundary s).ra = s.ra ∧ (psuBoundary s).rsu = s.rsu ∧
    (psuBoundary s).ilu = s.ilu ∧ (psuBoundary s).cbu = s.cbu ∧ (psuBoundary s).iml = s.iml ∧
    (psuBoundary s).csu = s.csu ∧ (psuBoundary s).pending = s.pending := by
  simp [psuBoundary]

@[simp] theorem reloadAllowances_keeps (t : Tables) (s : State) :
    (reloadAllowances t s).bpu = s.bpu ∧ (reloadAllowances t s).tables = s.tables ∧
    (reloadAllowances t s).rt = s.rt ∧ (reloadAllowances t s).ob = s.ob ∧ (reloadAllowances t s).ra = s.ra ∧
    (reloadAllowances t s).rsu = s.rsu ∧ (reloadAllowances t s).ilu = s.ilu ∧
    (reloadAllowances t s).cbu = s.cbu ∧ (reloadAllowances t s).iml = s.iml ∧
    (reloadAllowances t s).csu = s.csu ∧ (reloadAllowances t s).pending = s.pending := by
  simp [reloadAllowances]

@[simp] theorem raiseEntry_keeps (e : Fin 8) (p : Fin 32) (c : Cause) (s : State) :
    (raiseEntry e p c s).bpu = s.bpu ∧ (raiseEntry e p c s).tables = s.tables ∧ (raiseEntry e p c s).rt = s.rt ∧
    (raiseEntry e p c s).ob = s.ob ∧ (raiseEntry e p c s).ra = s.ra ∧ (raiseEntry e p c s).psu = s.psu ∧
    (raiseEntry e p c s).rsu = s.rsu ∧ (raiseEntry e p c s).cbu = s.cbu ∧ (raiseEntry e p c s).iml = s.iml ∧
    (raiseEntry e p c s).pending = s.pending := by
  simp [raiseEntry]

@[simp] theorem oweStop_keeps (p : Fin 32) (c : Cause) (s : State) :
    (oweStop p c s).bpu = s.bpu ∧ (oweStop p c s).tables = s.tables ∧ (oweStop p c s).rt = s.rt ∧
    (oweStop p c s).ob = s.ob ∧ (oweStop p c s).ra = s.ra ∧ (oweStop p c s).psu = s.psu ∧
    (oweStop p c s).rsu = s.rsu ∧ (oweStop p c s).cbu = s.cbu ∧ (oweStop p c s).iml = s.iml ∧
    (oweStop p c s).csu = s.csu ∧ (oweStop p c s).pending = s.pending := by
  simp only [oweStop]; (repeat' split) <;> simp

@[simp] theorem placeStop_keeps (p : Fin 32) (c : Cause) (s : State) :
    (placeStop p c s).bpu = s.bpu ∧ (placeStop p c s).tables = s.tables ∧ (placeStop p c s).rt = s.rt ∧
    (placeStop p c s).ob = s.ob ∧ (placeStop p c s).ra = s.ra ∧ (placeStop p c s).psu = s.psu ∧
    (placeStop p c s).rsu = s.rsu ∧ (placeStop p c s).cbu = s.cbu ∧ (placeStop p c s).iml = s.iml ∧
    (placeStop p c s).pending = s.pending := by
  simp only [placeStop]; (repeat' split) <;> simp

@[simp] theorem evaluatePump_keeps (t : Tables) (p : Fin 32) (s : State) :
    (evaluatePump t p s).bpu = s.bpu ∧ (evaluatePump t p s).tables = s.tables ∧ (evaluatePump t p s).rt = s.rt ∧
    (evaluatePump t p s).ob = s.ob ∧ (evaluatePump t p s).ra = s.ra ∧ (evaluatePump t p s).psu = s.psu ∧
    (evaluatePump t p s).rsu = s.rsu ∧ (evaluatePump t p s).cbu = s.cbu ∧ (evaluatePump t p s).iml = s.iml ∧
    (evaluatePump t p s).pending = s.pending := by
  simp only [evaluatePump]; (repeat' split) <;> simp

@[simp] theorem timedStop_keeps (p : Fin 32) (s : State) :
    (timedStop p s).bpu = s.bpu ∧ (timedStop p s).tables = s.tables ∧ (timedStop p s).rt = s.rt ∧
    (timedStop p s).ob = s.ob ∧ (timedStop p s).ra = s.ra ∧ (timedStop p s).psu = s.psu ∧
    (timedStop p s).rsu = s.rsu ∧ (timedStop p s).cbu = s.cbu ∧ (timedStop p s).iml = s.iml ∧
    (timedStop p s).pending = s.pending := by
  simp only [timedStop]; (repeat' split) <;> simp

@[simp] theorem takeInFlag_keeps (t : Tables) (e : Fin 8) (p : Fin 32) (c : Cause) (s : State) :
    (takeInFlag t e p c s).bpu = s.bpu ∧ (takeInFlag t e p c s).tables = s.tables ∧
    (takeInFlag t e p c s).rt = s.rt ∧ (takeInFlag t e p c s).ob = s.ob ∧ (takeInFlag t e p c s).ra = s.ra ∧
    (takeInFlag t e p c s).psu = s.psu ∧ (takeInFlag t e p c s).rsu = s.rsu ∧
    (takeInFlag t e p c s).cbu = s.cbu ∧ (takeInFlag t e p c s).iml = s.iml ∧
    (takeInFlag t e p c s).pending = s.pending := by
  simp only [takeInFlag]; (repeat' split) <;> simp

@[simp] theorem takeInRounds_keeps (t : Tables) (n : Nat) (s : State) :
    (takeInRounds t n s).bpu = s.bpu ∧ (takeInRounds t n s).tables = s.tables ∧ (takeInRounds t n s).rt = s.rt ∧
    (takeInRounds t n s).ob = s.ob ∧ (takeInRounds t n s).ra = s.ra ∧ (takeInRounds t n s).psu = s.psu ∧
    (takeInRounds t n s).rsu = s.rsu ∧ (takeInRounds t n s).cbu = s.cbu ∧ (takeInRounds t n s).iml = s.iml ∧
    (takeInRounds t n s).pending = s.pending := by
  induction n generalizing s with
  | zero => simp [takeInRounds]
  | succ n ih => simp only [takeInRounds]; repeat' split
                 all_goals simp_all

@[simp] theorem takeIn_keeps (t : Tables) (s : State) :
    (takeIn t s).bpu = s.bpu ∧ (takeIn t s).tables = s.tables ∧ (takeIn t s).rt = s.rt ∧
    (takeIn t s).ob = s.ob ∧ (takeIn t s).psu = s.psu ∧ (takeIn t s).rsu = s.rsu ∧ (takeIn t s).cbu = s.cbu ∧
    (takeIn t s).iml = s.iml ∧ (takeIn t s).pending = s.pending := by
  simp only [takeIn]; (repeat' split) <;> simp

@[simp] theorem takeInDispatched_keeps (t : Tables) (p : Fin 32) (s : State) :
    (takeInDispatched t p s).bpu = s.bpu ∧ (takeInDispatched t p s).tables = s.tables ∧
    (takeInDispatched t p s).rt = s.rt ∧ (takeInDispatched t p s).ob = s.ob ∧
    (takeInDispatched t p s).psu = s.psu ∧ (takeInDispatched t p s).rsu = s.rsu ∧
    (takeInDispatched t p s).cbu = s.cbu ∧ (takeInDispatched t p s).iml = s.iml ∧
    (takeInDispatched t p s).pending = s.pending := by
  simp only [takeInDispatched]; (repeat' split) <;> simp

@[simp] theorem freeStoreEntry_keeps (t : Tables) (e : Fin 8) (s : State) :
    (freeStoreEntry t e s).bpu = s.bpu ∧ (freeStoreEntry t e s).tables = s.tables ∧
    (freeStoreEntry t e s).rt = s.rt ∧ (freeStoreEntry t e s).ob = s.ob ∧ (freeStoreEntry t e s).psu = s.psu ∧
    (freeStoreEntry t e s).rsu = s.rsu ∧ (freeStoreEntry t e s).cbu = s.cbu ∧
    (freeStoreEntry t e s).iml = s.iml ∧ (freeStoreEntry t e s).pending = s.pending := by
  simp [freeStoreEntry]

@[simp] theorem dispatchHandedOver_keeps (t : Tables) (p : Fin 32) (a : Action) (s : State) :
    (dispatchHandedOver t p a s).bpu = s.bpu ∧ (dispatchHandedOver t p a s).tables = s.tables ∧
    (dispatchHandedOver t p a s).rt = s.rt ∧ (dispatchHandedOver t p a s).ob = s.ob ∧
    (dispatchHandedOver t p a s).psu = s.psu ∧ (dispatchHandedOver t p a s).rsu = s.rsu ∧
    (dispatchHandedOver t p a s).cbu = s.cbu ∧ (dispatchHandedOver t p a s).iml = s.iml ∧
    (dispatchHandedOver t p a s).pending = s.pending := by
  cases a <;> (simp only [dispatchHandedOver]; (repeat' split) <;> simp)

end Sys2Proof.Machine
end

