-- ==== Sys2Proof/Laws/OrdersFrames.lean ====
section
/-! SUPPORT. What each operation of the Order Book, the Release Arbiter and the take advance leaves as it was: every block it names no change of. -/

namespace Sys2Proof.Machine

@[simp] theorem recordSlotWord_keeps (k : Fin 64) (w : Fin 6) (v : Word) (s : State) :
    (recordSlotWord k w v s).bpu = s.bpu ∧ (recordSlotWord k w v s).tables = s.tables ∧
    (recordSlotWord k w v s).rt = s.rt ∧ (recordSlotWord k w v s).ra = s.ra ∧
    (recordSlotWord k w v s).psu = s.psu ∧ (recordSlotWord k w v s).rsu = s.rsu ∧
    (recordSlotWord k w v s).ilu = s.ilu ∧ (recordSlotWord k w v s).cbu = s.cbu ∧
    (recordSlotWord k w v s).iml = s.iml ∧ (recordSlotWord k w v s).csu = s.csu ∧
    (recordSlotWord k w v s).pending = s.pending := by
  simp [recordSlotWord]

@[simp] theorem admitIndex_keeps (t : Tables) (i : Word) (s : State) :
    (admitIndex t i s).bpu = s.bpu ∧ (admitIndex t i s).tables = s.tables ∧ (admitIndex t i s).rt = s.rt ∧
    (admitIndex t i s).ra = s.ra ∧ (admitIndex t i s).psu = s.psu ∧ (admitIndex t i s).rsu = s.rsu ∧
    (admitIndex t i s).ilu = s.ilu ∧ (admitIndex t i s).cbu = s.cbu ∧ (admitIndex t i s).iml = s.iml ∧
    (admitIndex t i s).pending = s.pending := by
  simp only [admitIndex]; (repeat' split) <;> simp

@[simp] theorem admitFrom_keeps (t : Tables) (n : Nat) (i : Word) (s : State) :
    (admitFrom t n i s).bpu = s.bpu ∧ (admitFrom t n i s).tables = s.tables ∧ (admitFrom t n i s).rt = s.rt ∧
    (admitFrom t n i s).ra = s.ra ∧ (admitFrom t n i s).psu = s.psu ∧ (admitFrom t n i s).rsu = s.rsu ∧
    (admitFrom t n i s).ilu = s.ilu ∧ (admitFrom t n i s).cbu = s.cbu ∧ (admitFrom t n i s).iml = s.iml ∧
    (admitFrom t n i s).pending = s.pending := by
  induction n generalizing i s with
  | zero => simp [admitFrom]
  | succ n ih => simp_all [admitFrom]

@[simp] theorem reclaimRounds_keeps (t : Tables) (n : Nat) (s : State) :
    (reclaimRounds t n s).bpu = s.bpu ∧ (reclaimRounds t n s).tables = s.tables ∧
    (reclaimRounds t n s).ra = s.ra ∧ (reclaimRounds t n s).psu = s.psu ∧ (reclaimRounds t n s).rsu = s.rsu ∧
    (reclaimRounds t n s).ilu = s.ilu ∧ (reclaimRounds t n s).cbu = s.cbu ∧ (reclaimRounds t n s).iml = s.iml ∧
    (reclaimRounds t n s).csu = s.csu ∧ (reclaimRounds t n s).pending = s.pending := by
  induction n generalizing s with
  | zero => simp [reclaimRounds]
  | succ n ih => simp only [reclaimRounds]; repeat' split
                 all_goals simp_all

@[simp] theorem reclaimAdvance_keeps (t : Tables) (s : State) :
    (reclaimAdvance t s).bpu = s.bpu ∧ (reclaimAdvance t s).tables = s.tables ∧ (reclaimAdvance t s).ra = s.ra ∧
    (reclaimAdvance t s).psu = s.psu ∧ (reclaimAdvance t s).rsu = s.rsu ∧ (reclaimAdvance t s).ilu = s.ilu ∧
    (reclaimAdvance t s).cbu = s.cbu ∧ (reclaimAdvance t s).iml = s.iml ∧ (reclaimAdvance t s).csu = s.csu ∧
    (reclaimAdvance t s).pending = s.pending := by
  simp [reclaimAdvance]

@[simp] theorem cancelSlot_keeps (t : Tables) (k : Fin 64) (s : State) :
    (cancelSlot t k s).bpu = s.bpu ∧ (cancelSlot t k s).tables = s.tables ∧ (cancelSlot t k s).psu = s.psu ∧
    (cancelSlot t k s).rsu = s.rsu ∧ (cancelSlot t k s).ilu = s.ilu ∧ (cancelSlot t k s).cbu = s.cbu ∧
    (cancelSlot t k s).iml = s.iml ∧ (cancelSlot t k s).pending = s.pending := by
  simp only [cancelSlot]; (repeat' split) <;> simp

@[simp] theorem submitAcknowledged_keeps (t : Tables) (v : Word) (s : State) :
    (submitAcknowledged t v s).bpu = s.bpu ∧ (submitAcknowledged t v s).tables = s.tables ∧
    (submitAcknowledged t v s).psu = s.psu ∧ (submitAcknowledged t v s).rsu = s.rsu ∧
    (submitAcknowledged t v s).ilu = s.ilu ∧ (submitAcknowledged t v s).cbu = s.cbu ∧
    (submitAcknowledged t v s).iml = s.iml ∧ (submitAcknowledged t v s).pending = s.pending := by
  simp only [submitAcknowledged]; (repeat' split) <;> simp

@[simp] theorem foldl_freeStoreEntry_keeps (t : Tables) (l : List (Fin 8)) (s : State) :
    (l.foldl (fun s' e => freeStoreEntry t e s') s).bpu = s.bpu ∧
    (l.foldl (fun s' e => freeStoreEntry t e s') s).tables = s.tables ∧
    (l.foldl (fun s' e => freeStoreEntry t e s') s).rt = s.rt ∧
    (l.foldl (fun s' e => freeStoreEntry t e s') s).ob = s.ob ∧
    (l.foldl (fun s' e => freeStoreEntry t e s') s).psu = s.psu ∧
    (l.foldl (fun s' e => freeStoreEntry t e s') s).rsu = s.rsu ∧
    (l.foldl (fun s' e => freeStoreEntry t e s') s).cbu = s.cbu ∧
    (l.foldl (fun s' e => freeStoreEntry t e s') s).iml = s.iml ∧
    (l.foldl (fun s' e => freeStoreEntry t e s') s).pending = s.pending := by
  induction l generalizing s with
  | nil => simp
  | cons e l ih => simp [ih]

@[simp] theorem withdrawAll_keeps (t : Tables) (q : Nat) (s : State) :
    (withdrawAll t q s).bpu = s.bpu ∧ (withdrawAll t q s).tables = s.tables ∧ (withdrawAll t q s).rt = s.rt ∧
    (withdrawAll t q s).ob = s.ob ∧ (withdrawAll t q s).psu = s.psu ∧ (withdrawAll t q s).rsu = s.rsu ∧
    (withdrawAll t q s).cbu = s.cbu ∧ (withdrawAll t q s).iml = s.iml ∧
    (withdrawAll t q s).pending = s.pending := by
  simp [withdrawAll]

@[simp] theorem appendRelease_keeps (o : Origin) (s : State) :
    (appendRelease o s).bpu = s.bpu ∧ (appendRelease o s).tables = s.tables ∧ (appendRelease o s).ob = s.ob ∧
    (appendRelease o s).ra = s.ra ∧ (appendRelease o s).psu = s.psu ∧ (appendRelease o s).rsu = s.rsu ∧
    (appendRelease o s).ilu = s.ilu ∧ (appendRelease o s).cbu = s.cbu ∧ (appendRelease o s).iml = s.iml ∧
    (appendRelease o s).csu = s.csu ∧ (appendRelease o s).pending = s.pending := by
  simp [appendRelease]

@[simp] theorem markReleased_keeps (k : Fin 64) (s : State) :
    (markReleased k s).bpu = s.bpu ∧ (markReleased k s).tables = s.tables ∧ (markReleased k s).rt = s.rt ∧
    (markReleased k s).ra = s.ra ∧ (markReleased k s).psu = s.psu ∧ (markReleased k s).rsu = s.rsu ∧
    (markReleased k s).ilu = s.ilu ∧ (markReleased k s).cbu = s.cbu ∧ (markReleased k s).iml = s.iml ∧
    (markReleased k s).pending = s.pending := by
  simp only [markReleased]; (repeat' split) <;> simp

@[simp] theorem releaseHost_keeps (t : Tables) (k : Fin 64) (o : Order) (s : State) :
    (releaseHost t k o s).bpu = s.bpu ∧ (releaseHost t k o s).tables = s.tables ∧
    (releaseHost t k o s).ra = s.ra ∧ (releaseHost t k o s).rsu = s.rsu ∧ (releaseHost t k o s).cbu = s.cbu ∧
    (releaseHost t k o s).iml = s.iml ∧ (releaseHost t k o s).pending = s.pending := by
  simp [releaseHost]

@[simp] theorem markEntryReleased_keeps (e : Fin 8) (o : InternalOrder) (s : State) :
    (markEntryReleased e o s).bpu = s.bpu ∧ (markEntryReleased e o s).tables = s.tables ∧
    (markEntryReleased e o s).rt = s.rt ∧ (markEntryReleased e o s).ob = s.ob ∧
    (markEntryReleased e o s).ra = s.ra ∧ (markEntryReleased e o s).psu = s.psu ∧
    (markEntryReleased e o s).rsu = s.rsu ∧ (markEntryReleased e o s).cbu = s.cbu ∧
    (markEntryReleased e o s).iml = s.iml ∧ (markEntryReleased e o s).csu = s.csu ∧
    (markEntryReleased e o s).pending = s.pending := by
  simp [markEntryReleased]

@[simp] theorem releaseInternal_keeps (t : Tables) (e : Fin 8) (o : InternalOrder) (s : State) :
    (releaseInternal t e o s).bpu = s.bpu ∧ (releaseInternal t e o s).tables = s.tables ∧
    (releaseInternal t e o s).ob = s.ob ∧ (releaseInternal t e o s).ra = s.ra ∧
    (releaseInternal t e o s).rsu = s.rsu ∧ (releaseInternal t e o s).cbu = s.cbu ∧
    (releaseInternal t e o s).iml = s.iml ∧ (releaseInternal t e o s).csu = s.csu ∧
    (releaseInternal t e o s).pending = s.pending := by
  simp [releaseInternal]

@[simp] theorem recordJudgements_keeps (t : Tables) (s : State) :
    (recordJudgements t s).bpu = s.bpu ∧ (recordJudgements t s).tables = s.tables ∧
    (recordJudgements t s).rt = s.rt ∧ (recordJudgements t s).ra = s.ra ∧ (recordJudgements t s).psu = s.psu ∧
    (recordJudgements t s).rsu = s.rsu ∧ (recordJudgements t s).ilu = s.ilu ∧
    (recordJudgements t s).cbu = s.cbu ∧ (recordJudgements t s).iml = s.iml ∧
    (recordJudgements t s).pending = s.pending := by
  simp [recordJudgements]

@[simp] theorem releaseRound_keeps (t : Tables) (q : Nat) (s : State) :
    (releaseRound t q s).state.bpu = s.bpu ∧ (releaseRound t q s).state.tables = s.tables ∧
    (releaseRound t q s).state.rsu = s.rsu ∧ (releaseRound t q s).state.cbu = s.cbu ∧
    (releaseRound t q s).state.iml = s.iml ∧ (releaseRound t q s).state.pending = s.pending := by
  (simp only [releaseRound]; (repeat' split) <;> simp)

@[simp] theorem releaseRounds_keeps (t : Tables) (q n : Nat) (s : State) :
    (releaseRounds t q n s).1.bpu = s.bpu ∧ (releaseRounds t q n s).1.tables = s.tables ∧
    (releaseRounds t q n s).1.rsu = s.rsu ∧ (releaseRounds t q n s).1.cbu = s.cbu ∧
    (releaseRounds t q n s).1.iml = s.iml ∧ (releaseRounds t q n s).1.pending = s.pending := by
  induction n generalizing s with
  | zero => simp [releaseRounds]
  | succ n ih => simp only [releaseRounds]; split <;> simp [ih]

@[simp] theorem expireLate_keeps  (s : State) :
    (expireLate s).bpu = s.bpu ∧ (expireLate s).tables = s.tables ∧ (expireLate s).rt = s.rt ∧
    (expireLate s).ra = s.ra ∧ (expireLate s).psu = s.psu ∧ (expireLate s).rsu = s.rsu ∧
    (expireLate s).ilu = s.ilu ∧ (expireLate s).cbu = s.cbu ∧ (expireLate s).iml = s.iml ∧
    (expireLate s).pending = s.pending := by
  simp [expireLate]

@[simp] theorem releasePass_keeps (t : Tables) (s : State) :
    (releasePass t s).bpu = s.bpu ∧ (releasePass t s).tables = s.tables ∧ (releasePass t s).rsu = s.rsu ∧
    (releasePass t s).cbu = s.cbu ∧ (releasePass t s).iml = s.iml ∧
    (releasePass t s).pending = s.pending := by
  simp only [releasePass]; (repeat' split) <;> simp

@[simp] theorem dispatchPump_keeps (t : Tables) (p : Fin 32) (a : Action) (i : Word) (s : State) :
    (dispatchPump t p a i s).bpu = s.bpu ∧ (dispatchPump t p a i s).tables = s.tables ∧
    (dispatchPump t p a i s).rt = s.rt ∧ (dispatchPump t p a i s).ob = s.ob ∧
    (dispatchPump t p a i s).rsu = s.rsu ∧ (dispatchPump t p a i s).cbu = s.cbu ∧
    (dispatchPump t p a i s).iml = s.iml ∧ (dispatchPump t p a i s).pending = s.pending := by
  simp [dispatchPump]

@[simp] theorem entryDispatched_keeps (k : Fin 64) (s : State) :
    (entryDispatched k s).bpu = s.bpu ∧ (entryDispatched k s).tables = s.tables ∧ (entryDispatched k s).rt = s.rt ∧
    (entryDispatched k s).ra = s.ra ∧ (entryDispatched k s).psu = s.psu ∧ (entryDispatched k s).rsu = s.rsu ∧
    (entryDispatched k s).ilu = s.ilu ∧ (entryDispatched k s).cbu = s.cbu ∧ (entryDispatched k s).iml = s.iml ∧
    (entryDispatched k s).csu = s.csu ∧ (entryDispatched k s).pending = s.pending := by
  simp only [entryDispatched]; split <;> simp

@[simp] theorem dispatchNotice_keeps (t : Tables) (i : Word) (o : Origin) (s : State) :
    (dispatchNotice t i o s).bpu = s.bpu ∧ (dispatchNotice t i o s).tables = s.tables ∧
    (dispatchNotice t i o s).rt = s.rt ∧ (dispatchNotice t i o s).rsu = s.rsu ∧
    (dispatchNotice t i o s).cbu = s.cbu ∧ (dispatchNotice t i o s).iml = s.iml ∧
    (dispatchNotice t i o s).pending = s.pending := by
  simp only [dispatchNotice]; (repeat' split) <;> simp

@[simp] theorem takePositions_keeps (t : Tables) (n : Nat) (i : Word) (s : State) :
    (takePositions t n i s).bpu = s.bpu ∧ (takePositions t n i s).tables = s.tables ∧
    (takePositions t n i s).rsu = s.rsu ∧ (takePositions t n i s).cbu = s.cbu ∧
    (takePositions t n i s).iml = s.iml ∧ (takePositions t n i s).pending = s.pending := by
  induction n generalizing i s with
  | zero => simp [takePositions]
  | succ n ih => simp only [takePositions]; repeat' split
                 all_goals simp_all

@[simp] theorem takeAcknowledged_keeps (t : Tables) (v : Word) (s : State) :
    (takeAcknowledged t v s).bpu = s.bpu ∧ (takeAcknowledged t v s).tables = s.tables ∧
    (takeAcknowledged t v s).rsu = s.rsu ∧ (takeAcknowledged t v s).cbu = s.cbu ∧
    (takeAcknowledged t v s).iml = s.iml ∧ (takeAcknowledged t v s).pending = s.pending := by
  simp only [takeAcknowledged]; (repeat' split) <;> simp

end Sys2Proof.Machine
end

