-- ==== Sys2Proof/Laws/PlantFrames.lean ====
section
/-! SUPPORT. What each operation of the Report Snoop Unit and the Clock and Band Unit leaves as it was: every block it names no change of. -/

namespace Sys2Proof.Machine

@[simp] theorem putHouse_keeps (h : Fin 12) (r : HouseRec) (s : State) :
    (putHouse h r s).bpu = s.bpu ∧ (putHouse h r s).tables = s.tables ∧ (putHouse h r s).rt = s.rt ∧
    (putHouse h r s).ob = s.ob ∧ (putHouse h r s).ra = s.ra ∧ (putHouse h r s).psu = s.psu ∧
    (putHouse h r s).ilu = s.ilu ∧ (putHouse h r s).cbu = s.cbu ∧ (putHouse h r s).iml = s.iml ∧
    (putHouse h r s).csu = s.csu ∧ (putHouse h r s).pending = s.pending := by
  simp [putHouse]

@[simp] theorem reportWord_keeps (h : Fin 12) (w : Fin 7) (v : Word) (s : State) :
    (reportWord h w v s).bpu = s.bpu ∧ (reportWord h w v s).tables = s.tables ∧ (reportWord h w v s).rt = s.rt ∧
    (reportWord h w v s).ob = s.ob ∧ (reportWord h w v s).ra = s.ra ∧ (reportWord h w v s).psu = s.psu ∧
    (reportWord h w v s).ilu = s.ilu ∧ (reportWord h w v s).cbu = s.cbu ∧ (reportWord h w v s).iml = s.iml ∧
    (reportWord h w v s).csu = s.csu ∧ (reportWord h w v s).pending = s.pending := by
  simp [reportWord]

@[simp] theorem applyReport_keeps (t : Tables) (h : Fin 12) (s : State) :
    (applyReport t h s).bpu = s.bpu ∧ (applyReport t h s).tables = s.tables ∧ (applyReport t h s).rt = s.rt ∧
    (applyReport t h s).ob = s.ob ∧ (applyReport t h s).ra = s.ra ∧ (applyReport t h s).psu = s.psu ∧
    (applyReport t h s).ilu = s.ilu ∧ (applyReport t h s).cbu = s.cbu ∧ (applyReport t h s).iml = s.iml ∧
    (applyReport t h s).csu = s.csu ∧ (applyReport t h s).pending = s.pending := by
  simp [applyReport]

@[simp] theorem freshen_keeps (t : Tables) (h : Fin 12) (s : State) :
    (freshen t h s).bpu = s.bpu ∧ (freshen t h s).tables = s.tables ∧ (freshen t h s).rt = s.rt ∧
    (freshen t h s).ob = s.ob ∧ (freshen t h s).ra = s.ra ∧ (freshen t h s).psu = s.psu ∧
    (freshen t h s).ilu = s.ilu ∧ (freshen t h s).cbu = s.cbu ∧ (freshen t h s).iml = s.iml ∧
    (freshen t h s).csu = s.csu ∧ (freshen t h s).pending = s.pending := by
  simp [freshen]

@[simp] theorem clearBuffer_keeps (h : Fin 12) (s : State) :
    (clearBuffer h s).bpu = s.bpu ∧ (clearBuffer h s).tables = s.tables ∧ (clearBuffer h s).rt = s.rt ∧
    (clearBuffer h s).ob = s.ob ∧ (clearBuffer h s).ra = s.ra ∧ (clearBuffer h s).psu = s.psu ∧
    (clearBuffer h s).ilu = s.ilu ∧ (clearBuffer h s).cbu = s.cbu ∧ (clearBuffer h s).iml = s.iml ∧
    (clearBuffer h s).csu = s.csu ∧ (clearBuffer h s).pending = s.pending := by
  simp [clearBuffer]

@[simp] theorem setSequence_keeps (h : Fin 12) (q : Word) (s : State) :
    (setSequence h q s).bpu = s.bpu ∧ (setSequence h q s).tables = s.tables ∧ (setSequence h q s).rt = s.rt ∧
    (setSequence h q s).ob = s.ob ∧ (setSequence h q s).ra = s.ra ∧ (setSequence h q s).psu = s.psu ∧
    (setSequence h q s).ilu = s.ilu ∧ (setSequence h q s).cbu = s.cbu ∧ (setSequence h q s).iml = s.iml ∧
    (setSequence h q s).csu = s.csu ∧ (setSequence h q s).pending = s.pending := by
  simp [setSequence]

@[simp] theorem offerCommit_keeps (t : Tables) (h : Fin 12) (s : State) (p : Fin 32) :
    (offerCommit t h s p).bpu = s.bpu ∧ (offerCommit t h s p).tables = s.tables ∧
    (offerCommit t h s p).rt = s.rt ∧ (offerCommit t h s p).ob = s.ob ∧ (offerCommit t h s p).ra = s.ra ∧
    (offerCommit t h s p).rsu = s.rsu ∧ (offerCommit t h s p).cbu = s.cbu ∧ (offerCommit t h s p).iml = s.iml ∧
    (offerCommit t h s p).pending = s.pending := by
  (simp only [offerCommit]; (repeat' split) <;> simp)

@[simp] theorem foldl_offerCommit_keeps (t : Tables) (h : Fin 12) (l : List (Fin 32)) (s : State) :
    (l.foldl (offerCommit t h) s).bpu = s.bpu ∧ (l.foldl (offerCommit t h) s).tables = s.tables ∧
    (l.foldl (offerCommit t h) s).rt = s.rt ∧ (l.foldl (offerCommit t h) s).ob = s.ob ∧
    (l.foldl (offerCommit t h) s).ra = s.ra ∧ (l.foldl (offerCommit t h) s).rsu = s.rsu ∧
    (l.foldl (offerCommit t h) s).cbu = s.cbu ∧ (l.foldl (offerCommit t h) s).iml = s.iml ∧
    (l.foldl (offerCommit t h) s).pending = s.pending := by
  induction l generalizing s with
  | nil => simp
  | cons e l ih => simp [ih]

@[simp] theorem commitReport_keeps (t : Tables) (h : Fin 12) (s : State) :
    (commitReport t h s).bpu = s.bpu ∧ (commitReport t h s).tables = s.tables ∧ (commitReport t h s).rt = s.rt ∧
    (commitReport t h s).ob = s.ob ∧ (commitReport t h s).cbu = s.cbu ∧ (commitReport t h s).iml = s.iml ∧
    (commitReport t h s).pending = s.pending := by
  simp [commitReport]

@[simp] theorem sequenceAcknowledged_keeps (t : Tables) (h : Fin 12) (q : Word) (s : State) :
    (sequenceAcknowledged t h q s).bpu = s.bpu ∧ (sequenceAcknowledged t h q s).tables = s.tables ∧
    (sequenceAcknowledged t h q s).rt = s.rt ∧ (sequenceAcknowledged t h q s).ob = s.ob ∧
    (sequenceAcknowledged t h q s).cbu = s.cbu ∧ (sequenceAcknowledged t h q s).iml = s.iml ∧
    (sequenceAcknowledged t h q s).pending = s.pending := by
  simp only [sequenceAcknowledged]; (repeat' split) <;> simp

@[simp] theorem rsuBoundary_keeps  (s : State) :
    (rsuBoundary s).bpu = s.bpu ∧ (rsuBoundary s).tables = s.tables ∧ (rsuBoundary s).rt = s.rt ∧
    (rsuBoundary s).ob = s.ob ∧ (rsuBoundary s).ra = s.ra ∧ (rsuBoundary s).psu = s.psu ∧
    (rsuBoundary s).ilu = s.ilu ∧ (rsuBoundary s).cbu = s.cbu ∧ (rsuBoundary s).iml = s.iml ∧
    (rsuBoundary s).csu = s.csu ∧ (rsuBoundary s).pending = s.pending := by
  simp [rsuBoundary]

@[simp] theorem minuteEffects_keeps  (s : State) :
    (minuteEffects s).bpu = s.bpu ∧ (minuteEffects s).tables = s.tables ∧ (minuteEffects s).rt = s.rt ∧
    (minuteEffects s).ob = s.ob ∧ (minuteEffects s).ra = s.ra ∧ (minuteEffects s).psu = s.psu ∧
    (minuteEffects s).rsu = s.rsu ∧ (minuteEffects s).ilu = s.ilu ∧ (minuteEffects s).iml = s.iml ∧
    (minuteEffects s).pending = s.pending := by
  simp [minuteEffects]

@[simp] theorem bandEffects_keeps  (s : State) :
    (bandEffects s).bpu = s.bpu ∧ (bandEffects s).tables = s.tables ∧ (bandEffects s).rt = s.rt ∧
    (bandEffects s).ob = s.ob ∧ (bandEffects s).ra = s.ra ∧ (bandEffects s).psu = s.psu ∧
    (bandEffects s).rsu = s.rsu ∧ (bandEffects s).ilu = s.ilu ∧ (bandEffects s).iml = s.iml ∧
    (bandEffects s).csu = s.csu ∧ (bandEffects s).pending = s.pending := by
  simp [bandEffects]

@[simp] theorem advanceNow_keeps  (s : State) :
    (advanceNow s).bpu = s.bpu ∧ (advanceNow s).tables = s.tables ∧ (advanceNow s).rt = s.rt ∧
    (advanceNow s).ob = s.ob ∧ (advanceNow s).ra = s.ra ∧ (advanceNow s).psu = s.psu ∧
    (advanceNow s).rsu = s.rsu ∧ (advanceNow s).ilu = s.ilu ∧ (advanceNow s).iml = s.iml ∧
    (advanceNow s).csu = s.csu ∧ (advanceNow s).pending = s.pending := by
  simp [advanceNow]

@[simp] theorem clockEffects_keeps  (s : State) :
    (clockEffects s).bpu = s.bpu ∧ (clockEffects s).tables = s.tables ∧ (clockEffects s).rt = s.rt ∧
    (clockEffects s).ob = s.ob ∧ (clockEffects s).ra = s.ra ∧ (clockEffects s).psu = s.psu ∧
    (clockEffects s).rsu = s.rsu ∧ (clockEffects s).ilu = s.ilu ∧ (clockEffects s).iml = s.iml ∧
    (clockEffects s).pending = s.pending := by
  simp only [clockEffects]; (repeat' split) <;> simp

@[simp] theorem hourEffects_keeps  (s : State) :
    (hourEffects s).bpu = s.bpu ∧ (hourEffects s).tables = s.tables ∧ (hourEffects s).rt = s.rt ∧
    (hourEffects s).ob = s.ob ∧ (hourEffects s).ra = s.ra ∧ (hourEffects s).rsu = s.rsu ∧
    (hourEffects s).ilu = s.ilu ∧ (hourEffects s).cbu = s.cbu ∧ (hourEffects s).iml = s.iml ∧
    (hourEffects s).csu = s.csu ∧ (hourEffects s).pending = s.pending := by
  simp only [hourEffects]; (repeat' split) <;> simp

@[simp] theorem secondBoundary_keeps  (s : State) :
    (secondBoundary s).bpu = s.bpu ∧ (secondBoundary s).tables = s.tables ∧ (secondBoundary s).rt = s.rt ∧
    (secondBoundary s).ob = s.ob ∧ (secondBoundary s).ilu = s.ilu ∧ (secondBoundary s).iml = s.iml ∧
    (secondBoundary s).pending = s.pending := by
  simp [secondBoundary]

@[simp] theorem trefEdge_keeps  (s : State) :
    (trefEdge s).bpu = s.bpu ∧ (trefEdge s).tables = s.tables ∧ (trefEdge s).rt = s.rt ∧
    (trefEdge s).ob = s.ob ∧ (trefEdge s).ilu = s.ilu ∧ (trefEdge s).iml = s.iml ∧
    (trefEdge s).pending = s.pending := by
  simp only [trefEdge]; (repeat' split) <;> simp

@[simp] theorem setClock_keeps (d : Nat) (s : State) :
    (setClock d s).bpu = s.bpu ∧ (setClock d s).tables = s.tables ∧ (setClock d s).rt = s.rt ∧
    (setClock d s).ob = s.ob ∧ (setClock d s).ra = s.ra ∧ (setClock d s).psu = s.psu ∧
    (setClock d s).rsu = s.rsu ∧ (setClock d s).ilu = s.ilu ∧ (setClock d s).iml = s.iml ∧
    (setClock d s).pending = s.pending := by
  simp [setClock]

end Sys2Proof.Machine
end

