-- ==== Sys2Proof/Laws/BusFrames.lean ====
section
/-! SUPPORT. What each operation of the Bus Passage Unit, the Command and Status Unit and the Image Loader leaves as it was: every block it names no change of. -/

namespace Sys2Proof.Machine

@[simp] theorem grantMaster_keeps (c : Cycle) (o : MemOutcome) (b : Bool) (s : State) :
    (grantMaster c o b s).tables = s.tables ∧ (grantMaster c o b s).rt = s.rt ∧
    (grantMaster c o b s).ob = s.ob ∧ (grantMaster c o b s).ra = s.ra ∧ (grantMaster c o b s).psu = s.psu ∧
    (grantMaster c o b s).rsu = s.rsu ∧ (grantMaster c o b s).ilu = s.ilu ∧ (grantMaster c o b s).cbu = s.cbu ∧
    (grantMaster c o b s).iml = s.iml ∧ (grantMaster c o b s).csu = s.csu ∧
    (grantMaster c o b s).pending = s.pending := by
  simp [grantMaster]

@[simp] theorem grantLoader_keeps (a : Addr) (s : State) :
    (grantLoader a s).tables = s.tables ∧ (grantLoader a s).rt = s.rt ∧ (grantLoader a s).ob = s.ob ∧
    (grantLoader a s).ra = s.ra ∧ (grantLoader a s).psu = s.psu ∧ (grantLoader a s).rsu = s.rsu ∧
    (grantLoader a s).ilu = s.ilu ∧ (grantLoader a s).cbu = s.cbu ∧ (grantLoader a s).iml = s.iml ∧
    (grantLoader a s).csu = s.csu ∧ (grantLoader a s).pending = s.pending := by
  simp [grantLoader]

@[simp] theorem grant_keeps  (s : State) :
    (grant s).tables = s.tables ∧ (grant s).rt = s.rt ∧ (grant s).ob = s.ob ∧ (grant s).ra = s.ra ∧
    (grant s).psu = s.psu ∧ (grant s).rsu = s.rsu ∧ (grant s).ilu = s.ilu ∧ (grant s).cbu = s.cbu ∧
    (grant s).iml = s.iml ∧ (grant s).csu = s.csu ∧ (grant s).pending = s.pending := by
  simp only [grant]; (repeat' split) <;> simp

@[simp] theorem setStatus_keeps (w : Word) (o : CommandOutcome) (r : CommandReason) (s : State) :
    (setStatus w o r s).bpu = s.bpu ∧ (setStatus w o r s).tables = s.tables ∧ (setStatus w o r s).rt = s.rt ∧
    (setStatus w o r s).ob = s.ob ∧ (setStatus w o r s).ra = s.ra ∧ (setStatus w o r s).psu = s.psu ∧
    (setStatus w o r s).rsu = s.rsu ∧ (setStatus w o r s).ilu = s.ilu ∧ (setStatus w o r s).cbu = s.cbu ∧
    (setStatus w o r s).iml = s.iml ∧ (setStatus w o r s).pending = s.pending := by
  simp [setStatus]

@[simp] theorem setSched_keeps (x : Sched) (s : State) :
    (setSched x s).bpu = s.bpu ∧ (setSched x s).tables = s.tables ∧ (setSched x s).rt = s.rt ∧
    (setSched x s).ob = s.ob ∧ (setSched x s).ra = s.ra ∧ (setSched x s).psu = s.psu ∧
    (setSched x s).rsu = s.rsu ∧ (setSched x s).ilu = s.ilu ∧ (setSched x s).cbu = s.cbu ∧
    (setSched x s).iml = s.iml ∧ (setSched x s).pending = s.pending := by
  simp [setSched]

@[simp] theorem endSweepIfDone_keeps  (s : State) :
    (endSweepIfDone s).bpu = s.bpu ∧ (endSweepIfDone s).tables = s.tables ∧ (endSweepIfDone s).rt = s.rt ∧
    (endSweepIfDone s).ob = s.ob ∧ (endSweepIfDone s).ra = s.ra ∧ (endSweepIfDone s).psu = s.psu ∧
    (endSweepIfDone s).rsu = s.rsu ∧ (endSweepIfDone s).ilu = s.ilu ∧ (endSweepIfDone s).cbu = s.cbu ∧
    (endSweepIfDone s).iml = s.iml ∧ (endSweepIfDone s).pending = s.pending := by
  simp only [endSweepIfDone]; (repeat' split) <;> simp

@[simp] theorem startSweep_keeps (t : Tables) (k : SweepKind) (s : State) :
    (startSweep t k s).bpu = s.bpu ∧ (startSweep t k s).tables = s.tables ∧ (startSweep t k s).rt = s.rt ∧
    (startSweep t k s).ra = s.ra ∧ (startSweep t k s).psu = s.psu ∧ (startSweep t k s).rsu = s.rsu ∧
    (startSweep t k s).ilu = s.ilu ∧ (startSweep t k s).cbu = s.cbu ∧ (startSweep t k s).iml = s.iml ∧
    (startSweep t k s).pending = s.pending := by
  simp [startSweep]

@[simp] theorem sweepVisit_keeps (t : Tables) (s : State) :
    (sweepVisit t s).bpu = s.bpu ∧ (sweepVisit t s).tables = s.tables ∧ (sweepVisit t s).psu = s.psu ∧
    (sweepVisit t s).rsu = s.rsu ∧ (sweepVisit t s).ilu = s.ilu ∧ (sweepVisit t s).cbu = s.cbu ∧
    (sweepVisit t s).iml = s.iml ∧ (sweepVisit t s).pending = s.pending := by
  simp only [sweepVisit]; (repeat' split) <;> simp

@[simp] theorem beginLoad_keeps (k : LoadKind) (o : Option LoadOrigin) (s : State) :
    (beginLoad k o s).tables = s.tables ∧ (beginLoad k o s).rt = s.rt ∧ (beginLoad k o s).ob = s.ob ∧
    (beginLoad k o s).ra = s.ra ∧ (beginLoad k o s).psu = s.psu ∧ (beginLoad k o s).rsu = s.rsu ∧
    (beginLoad k o s).ilu = s.ilu ∧ (beginLoad k o s).cbu = s.cbu ∧ (beginLoad k o s).csu = s.csu ∧
    (beginLoad k o s).pending = s.pending := by
  simp [beginLoad]

@[simp] theorem acceptReload_keeps  (s : State) :
    (acceptReload s).tables = s.tables ∧ (acceptReload s).rt = s.rt ∧ (acceptReload s).ob = s.ob ∧
    (acceptReload s).ra = s.ra ∧ (acceptReload s).psu = s.psu ∧ (acceptReload s).rsu = s.rsu ∧
    (acceptReload s).ilu = s.ilu ∧ (acceptReload s).cbu = s.cbu ∧ (acceptReload s).pending = s.pending := by
  simp only [acceptReload]; (repeat' split) <;> simp

@[simp] theorem acceptClearLockout_keeps (t : Tables) (s : State) :
    (acceptClearLockout t s).bpu = s.bpu ∧ (acceptClearLockout t s).tables = s.tables ∧
    (acceptClearLockout t s).rt = s.rt ∧ (acceptClearLockout t s).ob = s.ob ∧
    (acceptClearLockout t s).rsu = s.rsu ∧ (acceptClearLockout t s).cbu = s.cbu ∧
    (acceptClearLockout t s).iml = s.iml ∧ (acceptClearLockout t s).pending = s.pending := by
  simp [acceptClearLockout]

@[simp] theorem acceptCommand_keeps (c : Command) (s : State) :
    (acceptCommand c s).tables = s.tables ∧ (acceptCommand c s).rt = s.rt ∧ (acceptCommand c s).rsu = s.rsu ∧
    (acceptCommand c s).pending = s.pending := by
  simp only [acceptCommand]; (repeat' split) <;> simp

@[simp] theorem takeCommand_keeps (w : Word) (s : State) :
    (takeCommand w s).tables = s.tables ∧ (takeCommand w s).rt = s.rt ∧ (takeCommand w s).rsu = s.rsu ∧
    (takeCommand w s).pending = s.pending := by
  simp only [takeCommand]; (repeat' split) <;> simp

@[simp] theorem statusWrite_keeps (w : Fin 64) (v : Word) (s : State) :
    (statusWrite w v s).tables = s.tables ∧ (statusWrite w v s).rt = s.rt ∧
    (statusWrite w v s).pending = s.pending := by
  simp only [statusWrite]; (repeat' split) <;> simp

@[simp] theorem setUpstream_keeps (u : Option UpCycle) (x : UpEnding) (s : State) :
    (setUpstream u x s).tables = s.tables ∧ (setUpstream u x s).rt = s.rt ∧ (setUpstream u x s).ob = s.ob ∧
    (setUpstream u x s).ra = s.ra ∧ (setUpstream u x s).psu = s.psu ∧ (setUpstream u x s).rsu = s.rsu ∧
    (setUpstream u x s).ilu = s.ilu ∧ (setUpstream u x s).cbu = s.cbu ∧ (setUpstream u x s).iml = s.iml ∧
    (setUpstream u x s).csu = s.csu ∧ (setUpstream u x s).pending = s.pending := by
  simp [setUpstream]

@[simp] theorem endCycle_keeps (x : UpEnding) (s : State) :
    (endCycle x s).tables = s.tables ∧ (endCycle x s).rt = s.rt ∧ (endCycle x s).ob = s.ob ∧
    (endCycle x s).ra = s.ra ∧ (endCycle x s).psu = s.psu ∧ (endCycle x s).rsu = s.rsu ∧
    (endCycle x s).ilu = s.ilu ∧ (endCycle x s).cbu = s.cbu ∧ (endCycle x s).iml = s.iml ∧
    (endCycle x s).csu = s.csu ∧ (endCycle x s).pending = s.pending := by
  simp [endCycle]

@[simp] theorem absorbEffect_keeps (a : AbsorbTarget) (v : Word) (s : State) :
    (absorbEffect a v s).tables = s.tables ∧ (absorbEffect a v s).pending = s.pending := by
  simp only [absorbEffect]; (repeat' split) <;> simp

@[simp] theorem carryOut_keeps (c : Cycle) (d : Decoded) (s : State) :
    (carryOut c d s).tables = s.tables ∧ (carryOut c d s).pending = s.pending := by
  simp only [carryOut]; (repeat' split) <;> simp

@[simp] theorem present_keeps (r : Decoded → Bool) (c : Cycle) (s : State) :
    (present r c s).tables = s.tables ∧ (present r c s).pending = s.pending := by
  simp only [present]; (repeat' split) <;> simp

@[simp] theorem endStall_keeps  (s : State) :
    (endStall s).tables = s.tables ∧ (endStall s).pending = s.pending := by
  simp only [endStall]; (repeat' split) <;> simp

@[simp] theorem abandonCycle_keeps  (s : State) :
    (abandonCycle s).tables = s.tables ∧ (abandonCycle s).rt = s.rt ∧ (abandonCycle s).ob = s.ob ∧
    (abandonCycle s).ra = s.ra ∧ (abandonCycle s).psu = s.psu ∧ (abandonCycle s).rsu = s.rsu ∧
    (abandonCycle s).ilu = s.ilu ∧ (abandonCycle s).cbu = s.cbu ∧ (abandonCycle s).iml = s.iml ∧
    (abandonCycle s).csu = s.csu ∧ (abandonCycle s).pending = s.pending := by
  simp only [abandonCycle]; (repeat' split) <;> simp

@[simp] theorem rejectReload_keeps (k : LoadKind) (s : State) :
    (rejectReload k s).bpu = s.bpu ∧ (rejectReload k s).tables = s.tables ∧ (rejectReload k s).rt = s.rt ∧
    (rejectReload k s).ob = s.ob ∧ (rejectReload k s).ra = s.ra ∧ (rejectReload k s).psu = s.psu ∧
    (rejectReload k s).rsu = s.rsu ∧ (rejectReload k s).ilu = s.ilu ∧ (rejectReload k s).cbu = s.cbu ∧
    (rejectReload k s).iml = s.iml ∧ (rejectReload k s).pending = s.pending := by
  simp only [rejectReload]; (repeat' split) <;> simp

@[simp] theorem endLoad_keeps (r : ImageReason) (s : State) :
    (endLoad r s).tables = s.tables ∧ (endLoad r s).rt = s.rt ∧ (endLoad r s).ob = s.ob ∧
    (endLoad r s).ra = s.ra ∧ (endLoad r s).psu = s.psu ∧ (endLoad r s).rsu = s.rsu ∧
    (endLoad r s).ilu = s.ilu ∧ (endLoad r s).cbu = s.cbu ∧ (endLoad r s).csu = s.csu ∧
    (endLoad r s).pending = s.pending := by
  simp [endLoad]

@[simp] theorem failLoad_keeps (r : ImageReason) (s : State) :
    (failLoad r s).tables = s.tables ∧ (failLoad r s).pending = s.pending := by
  simp [failLoad]

@[simp] theorem swapTables_keeps (t : Tables) (a b : Word) (s : State) :
    (swapTables t a b s).ra = s.ra ∧ (swapTables t a b s).cbu = s.cbu ∧ (swapTables t a b s).iml = s.iml ∧
    (swapTables t a b s).csu = s.csu ∧ (swapTables t a b s).pending = s.pending := by
  simp [swapTables]

@[simp] theorem judgeCapAfresh_keeps  (s : State) :
    (judgeCapAfresh s).bpu = s.bpu ∧ (judgeCapAfresh s).tables = s.tables ∧ (judgeCapAfresh s).rt = s.rt ∧
    (judgeCapAfresh s).ob = s.ob ∧ (judgeCapAfresh s).ra = s.ra ∧ (judgeCapAfresh s).psu = s.psu ∧
    (judgeCapAfresh s).rsu = s.rsu ∧ (judgeCapAfresh s).ilu = s.ilu ∧ (judgeCapAfresh s).iml = s.iml ∧
    (judgeCapAfresh s).pending = s.pending := by
  simp [judgeCapAfresh]

@[simp] theorem succeed_keeps  (s : State) :
    (succeed s).tables = s.tables ∧ (succeed s).rt = s.rt ∧ (succeed s).ob = s.ob ∧ (succeed s).ra = s.ra ∧
    (succeed s).psu = s.psu ∧ (succeed s).rsu = s.rsu ∧ (succeed s).ilu = s.ilu ∧ (succeed s).cbu = s.cbu ∧
    (succeed s).pending = s.pending := by
  simp [succeed]

@[simp] theorem completePowerOn_keeps (t : Tables) (a b : Word) (s : State) :
    (completePowerOn t a b s).pending = s.pending := by
  simp [completePowerOn]

@[simp] theorem finishReload_keeps (t : Tables) (a b : Word) (s : State) :
    (finishReload t a b s).pending = s.pending := by
  simp [finishReload]

@[simp] theorem completeReload_keeps (t : Tables) (a b : Word) (s : State) :
    (completeReload t a b s).pending = s.pending := by
  simp only [completeReload]; (repeat' split) <;> simp

@[simp] theorem completeLoad_keeps (a b : Word) (s : State) :
    (completeLoad a b s).pending = s.pending := by
  simp only [completeLoad]; (repeat' split) <;> simp

@[simp] theorem freePort_keeps  (s : State) :
    (freePort s).tables = s.tables ∧ (freePort s).rt = s.rt ∧ (freePort s).ob = s.ob ∧ (freePort s).ra = s.ra ∧
    (freePort s).psu = s.psu ∧ (freePort s).rsu = s.rsu ∧ (freePort s).ilu = s.ilu ∧ (freePort s).cbu = s.cbu ∧
    (freePort s).iml = s.iml ∧ (freePort s).csu = s.csu ∧ (freePort s).pending = s.pending := by
  simp [freePort]

@[simp] theorem continueLoad_keeps (p : LoadPhase) (n : Nat) (v : Word) (s : State) :
    (continueLoad p n v s).tables = s.tables ∧ (continueLoad p n v s).rt = s.rt ∧
    (continueLoad p n v s).ob = s.ob ∧ (continueLoad p n v s).ra = s.ra ∧ (continueLoad p n v s).psu = s.psu ∧
    (continueLoad p n v s).rsu = s.rsu ∧ (continueLoad p n v s).ilu = s.ilu ∧
    (continueLoad p n v s).cbu = s.cbu ∧ (continueLoad p n v s).csu = s.csu ∧
    (continueLoad p n v s).pending = s.pending := by
  simp [continueLoad]

@[simp] theorem headerRead_keeps (v : Word) (s : State) :
    (headerRead v s).tables = s.tables ∧ (headerRead v s).pending = s.pending := by
  simp only [headerRead]; (repeat' split) <;> simp

@[simp] theorem bodyRead_keeps (v : Word) (s : State) :
    (bodyRead v s).tables = s.tables ∧ (bodyRead v s).pending = s.pending := by
  simp only [bodyRead]; (repeat' split) <;> simp

@[simp] theorem imageWordRead_keeps (v : Word) (s : State) :
    (imageWordRead v s).tables = s.tables ∧ (imageWordRead v s).pending = s.pending := by
  simp only [imageWordRead]; (repeat' split) <;> simp

@[simp] theorem takeCompletion_keeps (s : State) :
    (takeCompletion s).pending = s.pending := by
  simp only [takeCompletion]; (repeat' split) <;> simp

@[simp] theorem takeWordRead_keeps (v : Word) (b : Bool) (s : State) :
    (takeWordRead v b s).pending = s.pending := by
  simp only [takeWordRead]; (repeat' split) <;> simp

@[simp] theorem indexWordRead_keeps (v : Word) (b : Bool) (s : State) :
    (indexWordRead v b s).pending = s.pending := by
  simp only [indexWordRead]; (repeat' split) <;> simp

@[simp] theorem loaderAcknowledged_keeps (v : Word) (b : Bool) (s : State) :
    (loaderAcknowledged v b s).pending = s.pending := by
  simp only [loaderAcknowledged]; (repeat' split) <;> simp

@[simp] theorem serveIndexStall_keeps (s : State) :
    (serveIndexStall s).pending = s.pending := by
  simp only [serveIndexStall]; (repeat' split) <;> simp

@[simp] theorem snoopTaken_keeps (t : Tables) (x : SnoopTarget) (v : Word) (s : State) :
    (snoopTaken t x v s).bpu = s.bpu ∧ (snoopTaken t x v s).tables = s.tables ∧
    (snoopTaken t x v s).cbu = s.cbu ∧ (snoopTaken t x v s).iml = s.iml ∧
    (snoopTaken t x v s).pending = s.pending := by
  simp only [snoopTaken]; (repeat' split) <;> simp

@[simp] theorem acknowledgedEffect_keeps (o : MemOutcome) (v : Word) (s : State) :
    (acknowledgedEffect o v s).bpu = s.bpu ∧ (acknowledgedEffect o v s).tables = s.tables ∧
    (acknowledgedEffect o v s).cbu = s.cbu ∧ (acknowledgedEffect o v s).iml = s.iml ∧
    (acknowledgedEffect o v s).pending = s.pending := by
  simp only [acknowledgedEffect]; (repeat' split) <;> simp

@[simp] theorem endMaster_keeps (u : UpCycle) (x : UpEnding) (s : State) :
    (endMaster u x s).tables = s.tables ∧ (endMaster u x s).rt = s.rt ∧ (endMaster u x s).ob = s.ob ∧
    (endMaster u x s).ra = s.ra ∧ (endMaster u x s).psu = s.psu ∧ (endMaster u x s).rsu = s.rsu ∧
    (endMaster u x s).ilu = s.ilu ∧ (endMaster u x s).cbu = s.cbu ∧ (endMaster u x s).iml = s.iml ∧
    (endMaster u x s).csu = s.csu ∧ (endMaster u x s).pending = s.pending := by
  simp [endMaster]

@[simp] theorem masterAcknowledged_keeps (u : UpCycle) (o : MemOutcome) (v : Word) (s : State) :
    (masterAcknowledged u o v s).tables = s.tables ∧ (masterAcknowledged u o v s).cbu = s.cbu ∧
    (masterAcknowledged u o v s).iml = s.iml ∧ (masterAcknowledged u o v s).pending = s.pending := by
  simp only [masterAcknowledged]; (repeat' split) <;> simp

@[simp] theorem memoryAcknowledged_keeps (v : Word) (s : State) :
    (memoryAcknowledged v s).pending = s.pending := by
  simp only [memoryAcknowledged]; (repeat' split) <;> simp

@[simp] theorem masterTimedOut_keeps (u : UpCycle) (s : State) :
    (masterTimedOut u s).tables = s.tables ∧ (masterTimedOut u s).rt = s.rt ∧ (masterTimedOut u s).ob = s.ob ∧
    (masterTimedOut u s).ra = s.ra ∧ (masterTimedOut u s).psu = s.psu ∧ (masterTimedOut u s).rsu = s.rsu ∧
    (masterTimedOut u s).ilu = s.ilu ∧ (masterTimedOut u s).cbu = s.cbu ∧ (masterTimedOut u s).iml = s.iml ∧
    (masterTimedOut u s).pending = s.pending := by
  simp [masterTimedOut]

@[simp] theorem memoryTimedOut_keeps  (s : State) :
    (memoryTimedOut s).tables = s.tables ∧ (memoryTimedOut s).pending = s.pending := by
  simp only [memoryTimedOut]; (repeat' split) <;> simp

@[simp] theorem acknowledgeSnoop_keeps (r : SnoopTarget → Bool) (s : State) :
    (acknowledgeSnoop r s).tables = s.tables ∧ (acknowledgeSnoop r s).cbu = s.cbu ∧
    (acknowledgeSnoop r s).iml = s.iml ∧ (acknowledgeSnoop r s).pending = s.pending := by
  simp only [acknowledgeSnoop]; (repeat' split) <;> simp

end Sys2Proof.Machine
end

