-- ==== Sys2Proof/Laws/Tab.lean ====
section
/-! SUPPORT. What reading a fixed-size table gives after each way of making one. -/

namespace Sys2Proof

/-- Two tables with the same entries are the same. -/
theorem Tab.ext_at {n : Nat} {α : Type} {t u : Tab n α} (h : ∀ i, t.at i = u.at i) : t = u := by
  apply Vector.ext
  intro i hi
  exact h ⟨i, hi⟩

@[simp] theorem Tab.at_ofFn {n : Nat} {α : Type} (f : Fin n → α) (i : Fin n) : (Tab.ofFn f).at i = f i := by
  simp [Tab.ofFn, Tab.at]

@[simp] theorem Tab.at_all {n : Nat} {α : Type} (a : α) (i : Fin n) : (Tab.all a : Tab n α).at i = a := by
  simp [Tab.all, Tab.at]

@[simp] theorem Tab.at_put_same {n : Nat} {α : Type} (t : Tab n α) (i : Fin n) (a : α) : (t.put i a).at i = a := by
  simp [Tab.put, Tab.at]

theorem Tab.at_put_other {n : Nat} {α : Type} (t : Tab n α) {i j : Fin n} (a : α) (h : j ≠ i) :
    (t.put i a).at j = t.at j := by
  have hv : i.val ≠ j.val := fun e => h (Fin.ext e.symm)
  simp [Tab.put, Tab.at, hv]

theorem Tab.at_put {n : Nat} {α : Type} (t : Tab n α) (i j : Fin n) (a : α) :
    (t.put i a).at j = if j = i then a else t.at j := by
  split
  · next h => subst h; exact Tab.at_put_same t j a
  · next h => exact Tab.at_put_other t a h

/-- The table of its own entries. -/
@[simp] theorem Tab.ofFn_at {n : Nat} {α : Type} (t : Tab n α) : Tab.ofFn (fun i => t.at i) = t :=
  Tab.ext_at fun i => Tab.at_ofFn _ i

/-- Putting back what stands there changes nothing. -/
@[simp] theorem Tab.put_at {n : Nat} {α : Type} (t : Tab n α) (i : Fin n) : t.put i (t.at i) = t :=
  Tab.ext_at fun j => by rw [Tab.at_put]; split <;> simp_all

/-- A sum over the numbers at which `p` holds. -/
theorem Tab.sum_numbers {n : Nat} (p : Fin n → Bool) (f : Fin n → Nat) :
    ((Tab.numbers n p).map f).sum = ∑ i, if p i = true then f i else 0 := by
  rw [Fin.sum_univ_def, Tab.numbers]
  induction List.finRange n with
  | nil => rfl
  | cons i l ih => by_cases h : p i = true <;> simp [h, ih]

end Sys2Proof
end

