-- ==== Sys2Proof/Laws/Effects.lean ====
section
/-! SUPPORT. What each small shared operation does change: its one block, in one equation. -/

namespace Sys2Proof.Machine

@[simp] theorem raiseFlag_csu (f : EventFlag) (s : State) :
    (raiseFlag f s).csu = { s.csu with flags := s.csu.flags ||| flagMask f } := rfl

@[simp] theorem requestPass_ra (s : State) : (requestPass s).ra = { requests := s.ra.requests + 1 } := rfl

@[simp] theorem putEntry_ob (k : Fin 64) (e : Entry) (s : State) : (putEntry k e s).ob = s.ob.put k e := rfl

@[simp] theorem setStatus_csu (w : Word) (o : CommandOutcome) (r : CommandReason) (s : State) :
    (setStatus w o r s).csu = { s.csu with status := { code := w, outcome := o, reason := r } } := rfl

@[simp] theorem setSched_csu (x : Sched) (s : State) : (setSched x s).csu = { s.csu with sched := x } := rfl

@[simp] theorem setUpstream_bpu (u : Option UpCycle) (x : UpEnding) (s : State) :
    (setUpstream u x s).bpu = { s.bpu with upstream := u, ending := x } := rfl

@[simp] theorem endCycle_bpu (x : UpEnding) (s : State) :
    (endCycle x s).bpu = { s.bpu with upstream := none, ending := x } := rfl

@[simp] theorem freePort_bpu (s : State) : (freePort s).bpu = { s.bpu with memPort := none } := rfl

@[simp] theorem putHouse_rsu (h : Fin 12) (r : HouseRec) (s : State) :
    (putHouse h r s).rsu = { s.rsu with houses := s.rsu.houses.put h r } := rfl

@[simp] theorem putPump_psu (p : Fin 32) (r : PumpRec) (s : State) :
    (putPump p r s).psu = { s.psu with pumps := s.psu.pumps.put p r } := by
  simp only [putPump]; split <;> simp

/-- The stop-owed flags after a pump record is written (R122). -/
theorem putPump_ilu (p : Fin 32) (r : PumpRec) (s : State) :
    (putPump p r s).ilu =
      if r.state ≠ (s.psu.pumps.at p).state ∧ stoppingState r.state = true then
        { s.ilu with owed := s.ilu.owed.put p none }
      else s.ilu := by
  simp only [putPump]; split <;> simp [clearOwed]

@[simp] theorem raiseFlagIf_true (f : EventFlag) (s : State) : raiseFlagIf true f s = raiseFlag f s := rfl

@[simp] theorem raiseFlagIf_false (f : EventFlag) (s : State) : raiseFlagIf false f s = s := rfl

/-- Raising a flag sets it. -/
@[simp] theorem flagSet_raiseFlag (f : EventFlag) (s : State) : flagSet (raiseFlag f s) f = true := by
  cases f <;> simp [flagSet, flagMask, flagPosition]

/-- The counters of the Report Snoop Unit, the levels and the reported bits stand when a house record is written. -/
theorem putHouse_others (h : Fin 12) (r : HouseRec) (s : State) {k : Fin 12} (hk : k ≠ h) :
    (putHouse h r s).rsu.houses.at k = s.rsu.houses.at k := by
  simp [Tab.at_put_other _ _ hk]

/-! ### The arbiter -/

/-- A grant changes the port's own three fields of the Bus Passage Unit, and no more. -/
theorem grant_bpu (s : State) :
    (grant s).bpu = { s.bpu with
      memPort := (grant s).bpu.memPort
      lastGrant := (grant s).bpu.lastGrant
      upstream := (grant s).bpu.upstream } := by
  simp only [grant]; (repeat' split) <;> simp [grantMaster, grantLoader]

/-- The arbiter grants nothing while a memory-port cycle is in flight (R148). -/
theorem grant_busy (s : State) (h : s.bpu.memPort.isSome = true) : grant s = s := by
  simp [grant, h]

/-! ### Cycles -/

theorem present_accepting {s : State} (h : Safety.Accepting s) (row : Decoded → Bool) (c : Cycle) :
    present row c s = if row (decodeCycle s c) then carryOut c (decodeCycle s c) s else s := by
  obtain ⟨h1, h2, h3⟩ := h
  simp [present, h1, h2, h3]

theorem offsetIn_inside {base len : Nat} {a : Addr} {d : Nat} (h : a.toNat = base + d) (hd : d < len) :
    offsetIn base len a = some d := by
  simp only [offsetIn, h]
  rw [if_pos (by omega)]
  simp

theorem offsetIn_above {base len : Nat} {a : Addr} (h : base + len ≤ a.toNat) : offsetIn base len a = none := by
  simp only [offsetIn]
  rw [if_neg (by omega)]

theorem statusAddr_toNat (s : State) {w : Nat} (h : w < 64) : (statusAddr s w).toNat = regionBase s + 3584 + w := by
  have := s.bpu.imgsel.isLt
  simp only [statusAddr, statusOffset, regionBase, BitVec.toNat_ofNat]
  omega

/-- A full-width host write to a writable status block word is absorbed (R155). -/
theorem decode_statusWrite (s : State) {w : Nat} (v : Word) (h : w < 64) (hw : writableStatusWord w = true) :
    decodeCycle s (hostWrite (statusAddr s w) v) = .absorb (.status (Fin.ofNat 64 w)) := by
  have ha := statusAddr_toNat s h
  have h1 : offsetIn (regionBase s) 3584 (statusAddr s w) = none := offsetIn_above (by omega)
  have h2 : offsetIn (regionBase s + statusOffset) 64 (statusAddr s w) = some w :=
    offsetIn_inside (by simp only [statusOffset]; omega) h
  simp [decodeCycle, hostWrite, h1, h2, decodeStatus, Cycle.full, hw]

/-- What an accepted write to a writable status block word does (R155). -/
theorem statusBlockWrite_accepting {s : State} (h : Safety.Accepting s) {w : Nat} (v : Word) (hw : w < 64)
    (hp : writableStatusWord w = true) :
    statusBlockWrite w v s = statusWrite (Fin.ofNat 64 w) v (endCycle (.ack none) s) := by
  rw [statusBlockWrite, present_accepting h, decode_statusWrite s v hw hp]
  rfl

/-- A write of a command's code takes the command (R181). -/
theorem commandWrite_accepting {s : State} (h : Safety.Accepting s) (code : Word) :
    commandWrite code s = takeCommand code (endCycle (.ack none) s) := by
  simp [commandWrite, statusBlockWrite_accepting h code (w := 1) (by omega) rfl, statusWrite]

/-- A cycle ended with UACK and no data where none is in progress changes the last ending alone. -/
theorem endCycle_accepting {s : State} (h : Safety.Accepting s) : endCycle (.ack none) s = Safety.acknowledged s := by
  obtain ⟨_, h, _⟩ := h
  simp only [endCycle, setUpstream, Safety.acknowledged]
  rw [← h]

/-- A command that a check of R182 turns away leaves its refusal in the command status, and nothing else. -/
theorem commandWrite_refused {s : State} (h : Safety.Accepting s) {code : Word} {cmd : Command} {r : CommandReason}
    (hcode : commandOf code = some cmd) (hr : commandCheck s cmd = r) (hne : r ≠ .none) :
    commandWrite code s = Safety.refusedCommand code r s := by
  have hc : commandCheck ((Safety.acknowledged s).setCsu { s.csu with commandWord := code }) cmd = r := hr
  rw [commandWrite_accepting h, endCycle_accepting h]
  simp only [takeCommand, hcode]
  rw [show (Safety.acknowledged s).csu = s.csu from rfl, hc]
  cases r <;> first | contradiction | rfl

/-- The arbiter grants nothing when no master cycle is in progress and no load reads (R161). -/
theorem grant_idle {s : State} (hu : s.bpu.upstream = none) (hp : s.iml.phase = .idle) : grant s = s := by
  simp [grant, masterWaiting, loaderAddr, hu, hp]

/-- The master cycle in flight, found by the rows that acknowledge it. -/
theorem masterInFlight_of {s : State} {u : UpCycle} {o : MemOutcome} (h : Safety.InFlight s u o) :
    masterInFlight s = some (u, o) := by
  obtain ⟨h1, h2, m, h3, h4⟩ := h
  simp [masterInFlight, h1, h2, h3, h4]

/-- The quiet test decides the quiet conditions of R174. -/
theorem quiet_iff (s : State) : quiet s = true ↔ Safety.Quiet s := by
  simp [quiet, Safety.Quiet, and_assoc]

/-- The clock after a second boundary (R133, R140). -/
theorem clockEffects_now (s : State) : (clockEffects s).cbu.now = epochAdd s.cbu.now 1 := by
  simp only [clockEffects]
  (repeat' split) <;> simp [bandEffects, minuteEffects, advanceNow]

/-- A record written in the state the pump already has clears no stop-owed flag. -/
theorem putPump_same {p : Fin 32} {r : PumpRec} {s : State} (h : r.state = (s.psu.pumps.at p).state) :
    putPump p r s = s.setPsu { s.psu with pumps := s.psu.pumps.put p r } := by
  simp [putPump, h]

/-! ### The completion of a load (R173, R176) -/

/-- The completion event of a load whose index values have both been read. -/
theorem takeCompletion_of_values {submit take : Word} {s : State} (h1 : s.iml.indexSubmit = some submit)
    (h2 : s.iml.indexTake = some take) : takeCompletion s = completeLoad submit take s := by
  simp only [takeCompletion, h1, h2]

/-- The completion event of a reload: the quiet re-check, the plant check, then the swap. -/
theorem completeLoad_reload {submit take : Word} {s : State} (h : s.iml.kind = .reload) :
    completeLoad submit take s = completeReload (parseTables s.iml.staging) submit take s := by
  simp only [completeLoad, h]

theorem completeLoad_powerOn {submit take : Word} {s : State} (h : s.iml.kind = .powerOn) :
    completeLoad submit take s = completePowerOn (parseTables s.iml.staging) submit take s := by
  simp only [completeLoad, h]

/-- A reload's second index read that leaves the completion event standing. -/
theorem takeWordRead_left {data : Word} {s : State} (h : s.iml.kind ≠ .powerOn) :
    takeWordRead data false s = s.setIml { s.iml with indexTake := some data, phase := .complete } := by
  simp [takeWordRead, h]

/-- A second index read with which the completion event is taken. -/
theorem takeWordRead_completes {data submit : Word} {atOnce : Bool} {s : State}
    (h : s.iml.indexSubmit = some submit) (hk : atOnce = true ∨ s.iml.kind = .powerOn) :
    takeWordRead data atOnce s =
      completeLoad submit data (s.setIml { s.iml with indexTake := some data, phase := .complete }) := by
  rcases hk with hk | hk <;> simp [takeWordRead, takeCompletion, h, hk]

/-- INDEX_STALL in COMPLETE takes the completion event; otherwise it grants the stall where it may. -/
theorem serveIndexStall_complete {s : State} (h : s.iml.phase = .complete) :
    serveIndexStall s = takeCompletion s := by simp [serveIndexStall, h]

theorem serveIndexStall_grants {s : State} (h : stallGrantable s = true) :
    serveIndexStall s = grant (s.setBpu { s.bpu with indexStall := true }) := by
  have hp : s.iml.phase ≠ .complete := by
    intro hc; simp [stallGrantable, hc] at h
  simp [serveIndexStall, h, hp]

/-! ### Fields of words -/

theorem field_nibble3 (w : Word) : field w 12 4 = (w / 4096).toNat := by
  have h : BitVec.toNat (4096 : Word) = 4096 := rfl
  simp only [field, BitVec.toNat_udiv, h]
  omega

theorem field_nibble2 (w : Word) : field w 8 4 = (w / 256 % 16).toNat := by
  simp [field, BitVec.toNat_udiv, BitVec.toNat_umod]

theorem field_nibble1 (w : Word) : field w 4 4 = (w / 16 % 16).toNat := by
  simp [field, BitVec.toNat_udiv, BitVec.toNat_umod]

theorem field_nibble0 (w : Word) : field w 0 4 = (w % 16).toNat := by
  simp [field, BitVec.toNat_umod]

theorem field_byte0 (w : Word) : field w 0 8 = (w % 256).toNat := by
  simp [field, BitVec.toNat_umod]

theorem field_priority (w : Word) : field w 8 3 = (w / 256 % 8).toNat := by
  simp [field, BitVec.toNat_udiv, BitVec.toNat_umod]

end Sys2Proof.Machine
end

