-- ==== Sys2Proof/Laws/Store.lean ====
section
/-! SUPPORT. The internal store, the stop-owed flags, and the order in which a round judges the entries. -/

namespace Sys2Proof

/-- The first number at which `p` holds. -/
theorem find_first {n : Nat} (p : Fin n → Bool) (i : Fin n) (hi : p i = true) (hlt : ∀ j, j < i → p j = false) :
    (List.finRange n).find? p = some i := by
  rw [List.find?_eq_some_iff_getElem]
  refine ⟨hi, i.val, by simp, by simp, ?_⟩
  intro j hj
  have := hlt ⟨j, by omega⟩ hj
  simp [this]

end Sys2Proof

namespace Sys2Proof.Machine

/-! ### The store -/

theorem freeEntry_eq_none {s : State} : freeEntry s = none ↔ ∀ e, s.ilu.store.at e ≠ .free := by
  simp [freeEntry]

/-- The lowest-numbered FREE entry (R115). -/
theorem freeEntry_first {s : State} {e : Fin 8} (he : s.ilu.store.at e = .free)
    (hlt : ∀ f, f < e → s.ilu.store.at f ≠ .free) : freeEntry s = some e := by
  apply find_first
  · simp [he]
  · intro j hj
    simpa using hlt j hj

theorem freeEntry_free {s : State} {e : Fin 8} (h : freeEntry s = some e) : s.ilu.store.at e = .free := by
  have := List.find?_some h
  simpa using this

/-- A pump holds an entry when some entry in use names it. -/
theorem holdsEntry_iff {s : State} {p : Fin 32} :
    holdsEntry s p = true ↔ ∃ e o, storeOrder (s.ilu.store.at e) = some o ∧ o.pump = p := by
  simp [holdsEntry, Option.any_eq_true]

/-! ### Raising and owing -/

/-- What raising an entry does to the Interlock Unit (R115). -/
@[simp] theorem raiseEntry_ilu (e : Fin 8) (p : Fin 32) (c : Cause) (s : State) :
    (raiseEntry e p c s).ilu =
      { store := s.ilu.store.put e (.waiting
          { pump := p, kind := kindOf c, cause := c, raised := s.cbu.now, seq := s.ilu.nextSeq }),
        nextSeq := s.ilu.nextSeq + 1, owed := s.ilu.owed.put p none } := by
  simp only [raiseEntry, raiseFlagIf]; split <;> simp

/-- Owing a stop sets the flag; one already set keeps its cause (R118). -/
theorem oweStop_eq (p : Fin 32) (c : Cause) (s : State) :
    oweStop p c s = s.setIlu { s.ilu with owed := s.ilu.owed.put p (some ((s.ilu.owed.at p).getD c)) } := by
  simp only [oweStop]
  split
  · next d h =>
    rw [show s.ilu.owed.put p (some ((s.ilu.owed.at p).getD c)) = s.ilu.owed from by
      rw [h]; exact (congrArg (s.ilu.owed.put p) h.symm).trans (Tab.put_at _ _)]
    rfl
  · next h => simp [h]

/-- One flag taken in is cleared, and no other flag changes (R123). -/
theorem takeInFlag_owed (t : Tables) (e : Fin 8) (p : Fin 32) (c : Cause) (s : State) :
    (takeInFlag t e p c s).ilu.owed = s.ilu.owed.put p none := by
  cases c <;> simp only [takeInFlag] <;> (try split) <;> simp [clearOwed]

/-! ### The order in which a round judges the entries (R116) -/

/-- Of two entries the one raised first, or neither, comes before the other. -/
theorem raisedBefore_eq_false {now : Epoch} {a b : InternalOrder} : raisedBefore now a b = false ↔
    epochOffset b.raised now < epochOffset a.raised now
      ∨ (epochOffset b.raised now = epochOffset a.raised now ∧ b.seq ≤ a.seq) := by
  simp only [raisedBefore, Bool.or_eq_false_iff, Bool.and_eq_false_iff, decide_eq_false_iff_not, beq_eq_false_iff_ne,
    ne_eq]
  omega

theorem candidateOrder_eq_some {seq0 : Nat} {x : StoreEntry} {o : InternalOrder} :
    candidateOrder seq0 x = some o ↔ x = .waiting o ∧ o.seq < seq0 := by
  cases x with
  | free => simp [candidateOrder]
  | released _ _ => simp [candidateOrder]
  | waiting q =>
    simp only [candidateOrder, StoreEntry.waiting.injEq]
    constructor
    · intro h
      split at h
      · cases h
        exact ⟨rfl, ‹_›⟩
      · cases h
    · rintro ⟨rfl, h⟩
      simp [h]

/-- A round judges the WAITING entries of the pass's beginning (R76), -/
theorem mem_judgedEntries {seq0 : Nat} {found : InternalOrder → Bool} {s : State} {e : Fin 8} {o : InternalOrder} :
    (e, o) ∈ judgedEntries seq0 found s ↔ (s.ilu.store.at e = .waiting o ∧ o.seq < seq0) ∧ found o = true := by
  simp only [judgedEntries, List.mem_insertionSort, List.mem_filterMap, List.mem_finRange, true_and,
    Option.map_eq_some_iff, Option.filter_eq_some_iff, candidateOrder_eq_some, Prod.mk.injEq]
  constructor
  · rintro ⟨_, _, h, rfl, rfl⟩
    exact h
  · intro h
    exact ⟨e, o, h, rfl, rfl⟩

/-- each once, -/
theorem judgedEntries_nodup (seq0 : Nat) (found : InternalOrder → Bool) (s : State) :
    ((judgedEntries seq0 found s).map fun x => x.1).Nodup := by
  refine ((List.perm_insertionSort _ _).map _).nodup_iff.mpr ?_
  rw [List.map_filterMap]
  refine List.Nodup.filterMap ?_ (List.nodup_finRange 8)
  intro a b c ha hb
  simp only [Option.map_map, Option.mem_def, Option.map_eq_some_iff, Function.comp] at ha hb
  obtain ⟨_, _, rfl⟩ := ha
  obtain ⟨_, _, h⟩ := hb
  exact h.symm

/-- the earliest raised first (R116). -/
theorem judgedEntries_ordered (seq0 : Nat) (found : InternalOrder → Bool) (s : State) :
    (judgedEntries seq0 found s).Pairwise fun x y =>
      epochOffset x.2.raised s.cbu.now < epochOffset y.2.raised s.cbu.now
        ∨ (epochOffset x.2.raised s.cbu.now = epochOffset y.2.raised s.cbu.now ∧ x.2.seq ≤ y.2.seq) := by
  let r (x y : Fin 8 × InternalOrder) : Prop := raisedBefore s.cbu.now y.2 x.2 = false
  have ht : Std.Total r := ⟨fun x y => by simp only [r, raisedBefore_eq_false]; omega⟩
  have htr : IsTrans (Fin 8 × InternalOrder) r := ⟨fun x y z => by simp only [r, raisedBefore_eq_false]; omega⟩
  exact (List.pairwise_insertionSort r _).imp fun h => raisedBefore_eq_false.mp h

theorem mem_withdrawals {seq0 : Nat} {s : State} {e : Fin 8} :
    e ∈ withdrawals s seq0 ↔ ∃ o, s.ilu.store.at e = .waiting o ∧ o.seq < seq0 ∧ withdrawn s o.pump = true := by
  simp [withdrawals, mem_judgedEntries, and_assoc]

theorem mem_internalCandidates {t : Tables} {seq0 : Nat} {s : State} {e : Fin 8} {o : InternalOrder} :
    (e, o) ∈ internalCandidates t seq0 s ↔
      (s.ilu.store.at e = .waiting o ∧ o.seq < seq0) ∧ internalEligible t s o = true := mem_judgedEntries

theorem withdrawn_iff {s : State} {p : Fin 32} : withdrawn s p = true ↔ Safety.FoundStopped s p := by
  unfold withdrawn Safety.FoundStopped
  cases h : (s.psu.pumps.at p).state <;> simp [reportedRunning]

/-- No entry is both withdrawn and eligible (R92). -/
theorem internalEligible_not_withdrawn {t : Tables} {s : State} {o : InternalOrder}
    (h : internalEligible t s o = true) : withdrawn s o.pump = false := by
  simp only [internalEligible, Bool.and_eq_true] at h
  have h1 := h.1.1.1
  unfold stoppable at h1
  unfold withdrawn
  cases hs : (s.psu.pumps.at o.pump).state <;> simp_all

/-! ### What take-ins and withdrawals leave of the store (R93, R123) -/

/-- A store as take-ins leave it: an entry stands, or was FREE and holds a stop raised since. -/
def TakenIn (before after : Ilu) : Prop :=
  before.nextSeq ≤ after.nextSeq ∧ ∀ e, after.store.at e = before.store.at e
    ∨ (before.store.at e = .free ∧ ∃ o, after.store.at e = .waiting o ∧ before.nextSeq ≤ o.seq)

theorem TakenIn.refl (x : Ilu) : TakenIn x x := ⟨Nat.le_refl _, fun _ => .inl rfl⟩

theorem TakenIn.trans {x y z : Ilu} (h : TakenIn x y) (g : TakenIn y z) : TakenIn x z := by
  refine ⟨Nat.le_trans h.1 g.1, fun e => ?_⟩
  rcases g.2 e with hg | ⟨hf, o, ho, hle⟩
  · rw [hg]
    exact h.2 e
  · rcases h.2 e with hh | ⟨_, q, hq, _⟩
    · exact .inr ⟨hh ▸ hf, o, ho, Nat.le_trans h.1 hle⟩
    · rw [hq] at hf
      cases hf

/-- Raising a stop in a FREE entry. -/
theorem raiseEntry_takenIn {e : Fin 8} {s : State} (he : s.ilu.store.at e = .free) (p : Fin 32) (c : Cause) :
    TakenIn s.ilu (raiseEntry e p c s).ilu := by
  refine ⟨by simp, fun f => ?_⟩
  rw [raiseEntry_ilu]
  by_cases hf : f = e
  · subst hf
    exact .inr ⟨he, { pump := p, kind := kindOf c, cause := c, raised := s.cbu.now, seq := s.ilu.nextSeq }, by simp,
      Nat.le_refl _⟩
  · exact .inl (by simp [Tab.at_put_other _ _ hf])

theorem takeInFlag_takenIn {e : Fin 8} {s : State} (he : s.ilu.store.at e = .free) (t : Tables) (p : Fin 32)
    (c : Cause) : TakenIn s.ilu (takeInFlag t e p c s).ilu := by
  have hc : TakenIn s.ilu (clearOwed p s).ilu := ⟨by simp [clearOwed], fun _ => .inl (by simp [clearOwed])⟩
  cases c <;> simp only [takeInFlag] <;> (try split) <;> first | exact hc | exact raiseEntry_takenIn he _ _

theorem takeInRounds_takenIn (t : Tables) (n : Nat) (s : State) : TakenIn s.ilu (takeInRounds t n s).ilu := by
  induction n generalizing s with
  | zero => exact .refl _
  | succ n ih =>
    simp only [takeInRounds]
    split
    · next e p he hp =>
      split
      · exact (takeInFlag_takenIn (freeEntry_free he) t p _).trans (ih _)
      · exact .refl _
    · exact .refl _

theorem takeIn_takenIn (t : Tables) (s : State) : TakenIn s.ilu (takeIn t s).ilu := by
  simp only [takeIn]
  split
  · simpa using takeInRounds_takenIn t 32 s
  · exact .refl _

/-- What freeing entries leaves of the entries a pass judges: the freed ones are gone, the rest stand (R93, R126). -/
theorem candidateOrder_freed (t : Tables) (seq0 : Nat) (l : List (Fin 8)) (s : State) (h : seq0 ≤ s.ilu.nextSeq)
    (e : Fin 8) :
    candidateOrder seq0 ((l.foldl (fun s' f => freeStoreEntry t f s') s).ilu.store.at e) =
      if e ∈ l then none else candidateOrder seq0 (s.ilu.store.at e) := by
  induction l generalizing s with
  | nil => simp
  | cons f l ih =>
    have hs : TakenIn (s.setIlu { s.ilu with store := s.ilu.store.put f .free }).ilu (freeStoreEntry t f s).ilu :=
      takeIn_takenIn t _
    have hseq : seq0 ≤ (freeStoreEntry t f s).ilu.nextSeq := Nat.le_trans h (by simpa using hs.1)
    have hnone (o : InternalOrder) (ho : seq0 ≤ o.seq) : candidateOrder seq0 (.waiting o) = none := by
      simp [candidateOrder, Nat.not_lt.mpr ho]
    rw [List.foldl_cons, ih _ hseq]
    by_cases hl : e ∈ l
    · simp [hl]
    · rcases hs.2 e with he | ⟨hf, o, ho, hle⟩
      · simp only [hl, if_false, List.mem_cons, or_false, he, State.setIlu_ilu, Tab.at_put]
        split <;> rfl
      · rw [ho, hnone o (Nat.le_trans h (by simpa using hle))]
        simp only [State.setIlu_ilu, Tab.at_put] at hf
        by_cases hef : e = f
        · simp [hef]
        · simp only [hef, if_false] at hf
          simp [hl, hef, hf, candidateOrder]

/-- The withdrawals of a round change none of its eligible entries (R92, R93). -/
theorem internalCandidates_withdrawAll (t : Tables) (seq0 : Nat) (s : State) (h : seq0 ≤ s.ilu.nextSeq) :
    internalCandidates t seq0 (withdrawAll t seq0 s) = internalCandidates t seq0 s := by
  have hk := withdrawAll_keeps t seq0 s
  have he : internalEligible t (withdrawAll t seq0 s) = internalEligible t s := by
    funext o
    simp [internalEligible, stoppable, reportedRunning, groupQuiet, groupRec, hasRoom, passed]
  have hj (e : Fin 8) : (candidateOrder seq0 ((withdrawAll t seq0 s).ilu.store.at e)).filter (internalEligible t s) =
      (candidateOrder seq0 (s.ilu.store.at e)).filter (internalEligible t s) := by
    rw [withdrawAll, candidateOrder_freed t seq0 _ s h e]
    split
    · next hw =>
      obtain ⟨o, ho, hlt, hwd⟩ := mem_withdrawals.mp hw
      rw [candidateOrder_eq_some.mpr ⟨ho, hlt⟩]
      cases hel : internalEligible t s o
      · simp [Option.filter, hel]
      · rw [internalEligible_not_withdrawn hel] at hwd
        cases hwd
    · rfl
  simp only [internalCandidates, judgedEntries, he, hj, hk]

end Sys2Proof.Machine
end

