-- ==== Sys2Proof/Laws/Sequences.lean ====
section
/-! SUPPORT. The admissions of a submit write and the notices of a take advance, one after another, and the reclaim
advance after them. -/

namespace Sys2Proof.Machine

/-- The same part with other indexes and another bus. No admission and no notice reads either. -/
def relinked (r : Rt) (b : Bpu) (s : State) : State := (s.setRt r).setBpu b

/-- The successor of an index, counted on. -/
theorem indexAfter_succ (i : Word) (d : Nat) : indexAfter (i + 1) d = indexAfter i (d + 1) := by
  simp only [indexAfter, BitVec.ofNat_add, BitVec.add_assoc]
  exact congrArg (i + ·) (BitVec.add_comm _ _)

/-- A snooped write acknowledged by its row (R151, R153). -/
theorem acknowledgeSnoop_of {row : SnoopTarget → Bool} {x : SnoopTarget} {s : State} {u : UpCycle} {t : Tables}
    (h : Safety.SnoopInFlight s u x) (hr : row x = true) (ht : s.tables = some t) :
    acknowledgeSnoop row s = grant (snoopTaken t x u.cycle.data (endMaster u (.ack none) s)) := by
  simp [acknowledgeSnoop, masterInFlight_of h.1, hr, masterAcknowledged, h.2, acknowledgedEffect, ht]

/-! ### Reclaim (R11) -/

theorem reclaimRounds_ob (t : Tables) (n : Nat) (s : State) (k : Fin 64) :
    (reclaimRounds t n s).ob.at k = s.ob.at k
      ∨ (finished (s.ob.at k).state = true ∧ (reclaimRounds t n s).ob.at k = Entry.reset) := by
  induction n generalizing s with
  | zero => exact Or.inl rfl
  | succ n ih =>
    simp only [reclaimRounds]
    split
    · next h =>
      have := ih (putEntry (slotOf t.map.ringSize s.rt.reclaim) Entry.reset
        (s.setRt { s.rt with reclaim := s.rt.reclaim + 1 }))
      by_cases hk : k = slotOf t.map.ringSize s.rt.reclaim
      · subst hk
        refine Or.inr ⟨h.2, ?_⟩
        rcases this with this | this
        · simpa [Tab.at_put] using this
        · exact this.2
      · simpa [Tab.at_put, hk] using this
    · exact Or.inl rfl

/-- An entry stands, or was finished and is freed. -/
theorem reclaimAdvance_ob (t : Tables) (s : State) (k : Fin 64) :
    (reclaimAdvance t s).ob.at k = s.ob.at k
      ∨ (finished (s.ob.at k).state = true ∧ (reclaimAdvance t s).ob.at k = Entry.reset) :=
  reclaimRounds_ob t 64 s k

/-! ### The admissions of a submit write (R34) -/

theorem admitIndex_relinked (t : Tables) (i : Word) (r : Rt) (b : Bpu) (s : State) :
    admitIndex t i (relinked r b s) = relinked r b (admitIndex t i s) := by
  simp only [admitIndex, show (relinked r b s).ob = s.ob from rfl,
    show ∀ e, admission t (relinked r b s) e = admission t s e from fun _ => rfl]
  split <;> rfl

theorem admitFrom_relinked (t : Tables) (n : Nat) (i : Word) (r : Rt) (b : Bpu) (s : State) :
    admitFrom t n i (relinked r b s) = relinked r b (admitFrom t n i s) := by
  induction n generalizing i s with
  | zero => rfl
  | succ n ih => simp only [admitFrom, admitIndex_relinked, ih]

/-- The last of n + 1 admissions sees the n before it. -/
theorem admitFrom_succ (t : Tables) (n : Nat) (i : Word) (s : State) :
    admitFrom t (n + 1) i s = admitIndex t (indexAfter i n) (admitFrom t n i s) := by
  induction n generalizing i s with
  | zero => simp [admitFrom, indexAfter]
  | succ n ih => rw [admitFrom, ih, indexAfter_succ, ← admitFrom]

theorem admitIndex_admitted (t : Tables) (i : Word) (s : State) :
    Safety.IndexAdmitted t (slotOf t.map.ringSize i) s (admitIndex t i s) := by
  refine ⟨fun o h => ?_, fun r h => ?_⟩ <;> (simp only [admitIndex, h]; rfl)

/-! ### What a notice does not read -/

theorem putPump_relinked (p : Fin 32) (x : PumpRec) (r : Rt) (b : Bpu) (s : State) :
    putPump p x (relinked r b s) = relinked r b (putPump p x s) := by
  simp only [putPump, apply_ite (relinked r b)]; rfl

theorem raiseEntry_relinked (e : Fin 8) (p : Fin 32) (c : Cause) (r : Rt) (b : Bpu) (s : State) :
    raiseEntry e p c (relinked r b s) = relinked r b (raiseEntry e p c s) := by
  cases c <;> rfl

theorem oweStop_relinked (p : Fin 32) (c : Cause) (r : Rt) (b : Bpu) (s : State) :
    oweStop p c (relinked r b s) = relinked r b (oweStop p c s) := by
  simp only [oweStop, show (relinked r b s).ilu = s.ilu from rfl]; split <;> rfl

theorem placeStop_relinked (p : Fin 32) (c : Cause) (r : Rt) (b : Bpu) (s : State) :
    placeStop p c (relinked r b s) = relinked r b (placeStop p c s) := by
  simp only [placeStop, show freeEntry (relinked r b s) = freeEntry s from rfl, oweStop_relinked, raiseEntry_relinked,
    show (relinked r b s).psu = s.psu from rfl]
  repeat' split
  all_goals rfl

theorem evaluatePump_relinked (t : Tables) (p : Fin 32) (r : Rt) (b : Bpu) (s : State) :
    evaluatePump t p (relinked r b s) = relinked r b (evaluatePump t p s) := by
  simp only [evaluatePump, show stopOutstanding (relinked r b s) p = stopOutstanding s p from rfl,
    show tripCause t (relinked r b s) p = tripCause t s p from rfl, placeStop_relinked]
  repeat' split
  all_goals rfl

theorem takeInFlag_relinked (t : Tables) (e : Fin 8) (p : Fin 32) (c : Cause) (r : Rt) (b : Bpu) (s : State) :
    takeInFlag t e p c (relinked r b s) = relinked r b (takeInFlag t e p c s) := by
  cases c <;>
    simp only [takeInFlag, raiseEntry_relinked, show tripCause t (relinked r b s) p = tripCause t s p from rfl] <;>
    (try split) <;> rfl

theorem takeInRounds_relinked (t : Tables) (n : Nat) (r : Rt) (b : Bpu) (s : State) :
    takeInRounds t n (relinked r b s) = relinked r b (takeInRounds t n s) := by
  induction n generalizing s with
  | zero => rfl
  | succ n ih =>
    simp only [takeInRounds, show freeEntry (relinked r b s) = freeEntry s from rfl,
      show selectOwed (relinked r b s) = selectOwed s from rfl, show (relinked r b s).ilu = s.ilu from rfl,
      takeInFlag_relinked, ih]
    repeat' split
    all_goals rfl

theorem takeIn_relinked (t : Tables) (r : Rt) (b : Bpu) (s : State) :
    takeIn t (relinked r b s) = relinked r b (takeIn t s) := by
  simp only [takeIn, show freeEntry (relinked r b s) = freeEntry s from rfl,
    show selectOwed (relinked r b s) = selectOwed s from rfl, takeInRounds_relinked]
  split <;> rfl

theorem takeInDispatched_relinked (t : Tables) (p : Fin 32) (r : Rt) (b : Bpu) (s : State) :
    takeInDispatched t p (relinked r b s) = relinked r b (takeInDispatched t p s) := by
  simp only [takeInDispatched, show freeEntry (relinked r b s) = freeEntry s from rfl,
    show (relinked r b s).ilu = s.ilu from rfl, takeInFlag_relinked]
  split <;> rfl

theorem dispatchPump_relinked (t : Tables) (p : Fin 32) (a : Action) (i : Word) (r : Rt) (b : Bpu) (s : State) :
    dispatchPump t p a i (relinked r b s) = relinked r b (dispatchPump t p a i s) := by
  have hp : pumpDispatched t p a (relinked r b s) = relinked r b (pumpDispatched t p a s) := by
    cases a <;> exact putPump_relinked _ _ _ _ _
  have hg (x : State) : groupDispatched t p i (relinked r b x) = relinked r b (groupDispatched t p i x) := by
    simp only [groupDispatched, show groupRec t (relinked r b x) p = groupRec t x p from rfl]
    repeat' split
    all_goals rfl
  have hd (x : State) : dispatchHandedOver t p a (relinked r b x) = relinked r b (dispatchHandedOver t p a x) := by
    cases a <;>
      simp only [dispatchHandedOver, takeInDispatched_relinked, evaluatePump_relinked,
        show ∀ y, (relinked r b y).psu = y.psu from fun _ => rfl] <;>
      split <;> rfl
  simp only [dispatchPump, hp, hg, hd]

theorem dispatchNotice_relinked (t : Tables) (i : Word) (o : Origin) (r : Rt) (b : Bpu) (s : State) :
    dispatchNotice t i o (relinked r b s) = relinked r b (dispatchNotice t i o s) := by
  cases o with
  | host k =>
    have h : entryDispatched k (relinked r b s) = relinked r b (entryDispatched k s) := by
      simp only [entryDispatched, apply_ite (relinked r b)]; rfl
    simp only [dispatchNotice, show (relinked r b s).ob = s.ob from rfl, h, dispatchPump_relinked]
    split <;> rfl
  | internal e =>
    have h : freeStoreEntry t e (relinked r b s) = relinked r b (freeStoreEntry t e s) := by
      simp only [freeStoreEntry]
      exact takeIn_relinked t r b (s.setIlu { s.ilu with store := s.ilu.store.put e .free })
    simp only [dispatchNotice, show (relinked r b s).ilu = s.ilu from rfl, h, dispatchPump_relinked]
    split <;> rfl

/-! ### What a notice does (R19) -/

/-- The PSU takes a notice as R50, R51 and R70 say. -/
theorem pumpNotified_eq (t : Tables) (i : Word) (p : Fin 32) (a : Action) (y : State) :
    groupDispatched t p i (pumpDispatched t p a y) = Safety.pumpNotified t i p a y := by
  let r := y.psu.pumps.at p
  let confirm := some (startTimer y.cbu.now (t.pumps.at p).confirmTimeout)
  have hsame : putPump p r y = y.setPsu { y.psu with pumps := y.psu.pumps.put p r } := by simp [putPump, r]
  have hp : pumpDispatched t p a y =
      (y.setPsu { y.psu with pumps := y.psu.pumps.put p (if a = .start ∧ r.state = .startSent then
          { r with state := .starting, confirm }
        else if a = .stop ∧ r.state = .stopSent then { r with state := .stopping, confirm } else r) }).setIlu
      { y.ilu with owed := if a = .stop ∧ r.state = .stopSent then y.ilu.owed.put p none else y.ilu.owed } := by
    cases a <;> simp only [pumpDispatched, startDispatched, stopDispatched] <;> split
    · next h => simp [putPump, h, stoppingState, r]; rfl
    · next h => rw [hsame]; simp [h, r]; rfl
    · next h => simp [putPump, h, stoppingState, clearOwed, r]; rfl
    · next h => rw [hsame]; simp [h, r]; rfl
  have hg : groupOfPump t p = (t.houses.at (t.pumps.at p).house).group := rfl
  rw [hp]
  simp only [groupDispatched, groupRec, Safety.pumpNotified, State.setIlu_psu, State.setPsu_psu, hg]
  cases y.psu.groups.at (t.houses.at (t.pumps.at p).house).group with
  | quiet => rfl
  | guard _ _ _ => rfl
  | armed h at0 =>
    dsimp only
    by_cases e : i = at0
    · subst e; simp; rfl
    · rw [if_neg e, if_neg (Ne.symm e)]; rfl

theorem pumpNotified_lockout (t : Tables) (i : Word) (p : Fin 32) (a : Action) (y : State) :
    ((Safety.pumpNotified t i p a y).psu.pumps.at p).state = .lockout ↔ (y.psu.pumps.at p).state = .lockout := by
  simp only [Safety.pumpNotified, State.setIlu_psu, State.setPsu_psu, Tab.at_put, if_true]
  repeat' split
  all_goals simp_all

theorem raiseEntry_raised (e : Fin 8) (p : Fin 32) (c : Cause) (s : State) :
    raiseEntry e p c s = Safety.stopRaised e p c s := by
  cases c <;> rfl

theorem takeInFlag_flagTakenIn (t : Tables) (e : Fin 8) (p : Fin 32) (c : Cause) (s : State) :
    takeInFlag t e p c s = Safety.flagTakenIn t e p c s := by
  cases c <;> simp only [takeInFlag, Safety.flagTakenIn, raiseEntry_raised, reduceCtorEq, if_false, if_true] <;>
    (try split) <;> (try simp only [*]) <;> rfl

/-- The take-in of R124 with nothing to take in. -/
theorem takeInDispatched_none {t : Tables} {p : Fin 32} {s : State}
    (h : s.ilu.owed.at p = none ∨ ∀ e, s.ilu.store.at e ≠ .free) : takeInDispatched t p s = s := by
  rcases h with h | h
  · simp only [takeInDispatched, h]
  · rw [takeInDispatched, freeEntry_eq_none.mpr h]
    cases s.ilu.owed.at p <;> rfl

/-- The take-in of R124 of a set flag into the lowest-numbered FREE entry. -/
theorem takeInDispatched_some {t : Tables} {p : Fin 32} {c : Cause} {e : Fin 8} {s : State}
    (hc : s.ilu.owed.at p = some c) (he : Safety.LowestFree s e) :
    takeInDispatched t p s = (Safety.flagTakenIn t e p c s).setRa { requests := s.ra.requests + 1 } := by
  have h : (Safety.flagTakenIn t e p c s).ra = s.ra := by
    rw [← takeInFlag_flagTakenIn]; simp
  simp only [takeInDispatched, hc, freeEntry_first he.1 he.2, takeInFlag_flagTakenIn, requestPass, h]

/-- One notice handled whole. -/
theorem dispatchNotice_handled (t : Tables) (i : Word) (o : Origin) (y : State) :
    Safety.NoticeHandled t i o y (dispatchNotice t i o y) := by
  cases o with
  | host k =>
    intro o hs ho w
    have hw : dispatchNotice t i (.host k) y = dispatchHandedOver t o.pump o.action w := by
      have hs' : (y.ob.at k).state = .released := hs
      have ho' : (y.ob.at k).order = some o := ho
      simp only [dispatchNotice]
      rw [ho']
      simp only [entryDispatched, hs', if_true, dispatchPump, pumpNotified_eq]
      rfl
    have hl := pumpNotified_lockout t i o.pump o.action
      (y.setOb (y.ob.put k { y.ob.at k with state := .dispatched, reason := .none }))
    change (w.psu.pumps.at o.pump).state = .lockout ↔ (y.psu.pumps.at o.pump).state = .lockout at hl
    have hstore : w.ilu.store = y.ilu.store := rfl
    rw [hw]
    refine ⟨fun ha => ?_, fun ha => ?_⟩
    · simp only [dispatchHandedOver, ha, hl]
    · have howed : w.ilu.owed = y.ilu.owed := by show (if _ then _ else _) = _; simp [ha]
      have hl' : ((takeInDispatched t o.pump w).psu.pumps.at o.pump).state = .lockout
          ↔ (y.psu.pumps.at o.pump).state = .lockout := by simpa using hl
      simp only [dispatchHandedOver, ha, hl']
      refine ⟨fun hn => ?_, fun c f hc hf => ?_⟩
      · rw [takeInDispatched_none (by rw [howed, hstore]; exact hn)]
      · rw [takeInDispatched_some (howed ▸ hc) (show Safety.LowestFree w f from hf)]; rfl
  | internal e =>
    intro o gr h
    have hso : storeOrder (y.ilu.store.at e) = some o := by rw [h]; rfl
    have hl := pumpNotified_lockout t i o.pump .stop (takeIn t (y.setIlu { y.ilu with store := y.ilu.store.put e .free }))
    rw [show (takeIn t (y.setIlu { y.ilu with store := y.ilu.store.put e .free })).psu = y.psu by simp] at hl
    simp only [dispatchNotice, hso, dispatchPump, pumpNotified_eq, dispatchHandedOver, freeStoreEntry, hl]

/-! ### The notices of a take advance (R19) -/

/-- What the notices of a list of positions, from a position on, leave one after another. -/
def noticesTaken (t : Tables) : Word → List Released → State → State
  | _, [], s => s
  | i, x :: l, s => noticesTaken t (i + 1) l (dispatchNotice t i x.origin s)

/-- The last notice finds what those before it left. -/
theorem noticesTaken_concat (t : Tables) (i : Word) (l : List Released) (x : Released) (s : State) :
    noticesTaken t i (l ++ [x]) s = dispatchNotice t (indexAfter i l.length) x.origin (noticesTaken t i l s) := by
  induction l generalizing i s with
  | nil => simp [noticesTaken, indexAfter]
  | cons a l ih => simp only [List.cons_append, noticesTaken, ih, indexAfter_succ, List.length_cons]

theorem noticesTaken_relinked (t : Tables) (i : Word) (l : List Released) (r : Rt) (b : Bpu) (s : State) :
    noticesTaken t i l (relinked r b s) = relinked r b (noticesTaken t i l s) := by
  induction l generalizing i s with
  | nil => rfl
  | cons a l ih => simp only [noticesTaken, dispatchNotice_relinked, ih]

/-- A take advance removes its positions from the head of the release list and hands out their notices. -/
theorem takePositions_eq (t : Tables) (n : Nat) (i : Word) (s : State) :
    takePositions t n i s =
      relinked { s.rt with list := s.rt.list.drop n } s.bpu (noticesTaken t i (s.rt.list.take n) s) := by
  induction n generalizing i s with
  | zero => rfl
  | succ n ih =>
    cases h : s.rt.list with
    | nil =>
      rw [List.take_nil, List.drop_nil]
      simp only [takePositions, noticesTaken, h]
      rw [← h]; rfl
    | cons x l =>
      have hs : s.setRt { s.rt with list := l } = relinked { s.rt with list := l } s.bpu s := rfl
      simp only [takePositions, h, ih, hs, dispatchNotice_relinked, noticesTaken_relinked, List.take_succ_cons,
        List.drop_succ_cons, noticesTaken]
      rfl

end Sys2Proof.Machine
end

