-- ==== Sys2Proof/Tests/Slice0.lean ====
section
/-! SUPPORT. Small checks on fixed values: the well-formedness smoke, a few effects and layouts worked out by hand from
the manual, and for every obligation with hypotheses a state and operands that meet them. -/

namespace Sys2Proof.Tests

-- One theorem after another: the kernel's evaluations need their own threads' stacks otherwise.
set_option Elab.async false

open Sys2Proof.Machine Sys2Proof.Safety

/-! ### A small plant -/

/-- Pump p stands at position p mod 4 of house p / 4; house h is group h and lifts from reservoir 0 to reservoir 1. -/
def plant : Tables :=
  { map := { ringBase := 0x11000, ringSize := .n8, submitAddr := 0x12000, takeAddr := 0x12010, reportBase := 0x13000,
             houseCount := 3 },
    pumpCount := 9, reservoirCount := 2, feederCount := 1, defaultWindow := 600, timeout := 10,
    pumps := Tab.ofFn fun p =>
      { house := Fin.ofNat 12 (p.val / 4), position := Fin.ofNat 4 p.val, feeder := 0, runningUnits := 10,
        startingUnits := 20, minRun := 60, minRest := 90, startsPerHour := 6, confirmTimeout := 30 },
    houses := Tab.ofFn fun h =>
      { suction := 0, delivery := 1, group := Fin.ofNat 8 h.val, surgeGuard := 5, staleTime := 60 },
    reservoirs := Tab.all { fixed := false, trip := 100, lowSuction := 200, high := 900 },
    limits := Tab.all 200, bands := Tab.all { floor := 2, cap := 1 } }

/-- HOLD with the plant's tables in force, the clock set and at 00:01:40. -/
def live : State :=
  { State.reset with
    bpu := { Bpu.reset with resetn := false }
    tables := some plant
    cbu := { Cbu.reset with clockSet := true, now := 100 }
    csu := { Csu.reset with sched := .hold } }

def inRun (s : State) : State := s.setCsu { s.csu with sched := .run }

def atNow (n d : Nat) (s : State) : State := s.setCbu { s.cbu with now := n, divider := d }

def withPump (p : Fin 32) (r : PumpRec) (s : State) : State := s.setPsu { s.psu with pumps := s.psu.pumps.put p r }

def inState (x : PumpState) : PumpRec := { PumpRec.reset with state := x, allowance := 3 }

def withGroup (g : Fin 8) (x : GroupRec) (s : State) : State := s.setPsu { s.psu with groups := s.psu.groups.put g x }

def timedOut : Timer := { expiry := 100, due := true }

def withEntry (k : Fin 64) (e : Entry) (s : State) : State := s.setOb (s.ob.put k e)

/-- An order of priority 7 for pump 0, to start from 00:01:40 to 00:03:20. -/
def orderTo (a : Action) : Order :=
  { form := .short, action := a, pump := 0, priority := 7, earliest := 100, latest := 200, run := 60, tag := 5 }

def entryIn (x : EntryState) (a : Action) : Entry := { Entry.reset with state := x, order := some (orderTo a), reason := .pending }

/-- The recorded words of a short-form START for pump 0: priority 3, offset 0, 1 minute, tag 5. -/
def shortStart : Entry :=
  { Entry.reset with words := Tab.ofFn fun w => [some 0x1100, some 0x0300, some 1, some 5, none, none].getD w.val none }

/-- The recorded words of an entry, all of them. -/
def recordedAs (w0 w1 w2 w3 w4 : Word) : Entry :=
  { Entry.reset with words := Tab.ofFn fun w => some ([w0, w1, w2, w3, w4, 5].getD w.val 0) }

def indexes (submit reclaim release take : Word) (list : List Released) (s : State) : State :=
  s.setRt { submit, reclaim, release, take, list }

def withStore (e : Fin 8) (x : StoreEntry) (s : State) : State := s.setIlu { s.ilu with store := s.ilu.store.put e x }

def stopFor (p : Fin 32) (seq : Nat) : InternalOrder := { pump := p, kind := .tripStop, cause := .fault, raised := 90, seq }

/-- A store with no FREE entry: entry e holds a stop for pump e + 1. -/
def fullStore (s : State) : State :=
  s.setIlu { s.ilu with store := Tab.ofFn fun e => .waiting (stopFor (Fin.ofNat 32 (e.val + 1)) e.val), nextSeq := 8 }

def withLevels (suction delivery : Nat) (s : State) : State :=
  s.setRsu { s.rsu with levels := (s.rsu.levels.put 0 (some suction)).put 1 (some delivery) }

def freshHouse (s : State) : State :=
  s.setRsu { s.rsu with houses := s.rsu.houses.put 0 { HouseRec.reset with freshness := .fresh timedOut } }

def cycleOf (a : Addr) (write : Bool) (init : Initiator) (data : Word) : Cycle := { addr := a, write, lanes := 3, init, data }

def flight (o : MemOutcome) (data : Word) : UpCycle :=
  { cycle := cycleOf 0x12000 true .host data, stage := .inFlight o, abandoned := false }

def portOf (r : Requester) : MemCycle := { owner := r, addr := 0, write := false, lanes := 3, data := 0, timeout := 10 }

/-- A master's cycle with this outcome and data in flight. -/
def flying (o : MemOutcome) (data : Word) (s : State) : State :=
  s.setBpu { s.bpu with upstream := some (flight o data), memPort := some (portOf .master) }

/-- A load of the given kind and phase with a read in flight, nothing upstream. -/
def loading (kind : LoadKind) (phase : LoadPhase) (origin : Option LoadOrigin) (next : Nat) (submit : Option Word)
    (s : State) : State :=
  (s.setBpu { s.bpu with memPort := some (portOf .loader) }).setIml
    { Iml.idleWith .none with kind, phase, origin, nextFetch := next, indexSubmit := submit }

/-- A report of house 0 with every word recorded. -/
def fullBuffer : AssemblyBuffer := { clockSeen := true, words := Tab.all (some 3) }

def withBuffer (last : Option Word) (b : AssemblyBuffer) (s : State) : State :=
  s.setRsu { s.rsu with houses := s.rsu.houses.put 0 { HouseRec.reset with lastSequence := last, buffer := b } }

/-- Pump 0 STOPPED, its house FRESH, the levels good, RUN, one START WAITING in slot 0. -/
def ready : State :=
  indexes 1 0 0 0 []
    (withEntry 0 (entryIn .waiting .start) (freshHouse (withLevels 500 500 (withPump 0 (inState .stopped) (inRun live)))))

/-- Pump 0 RUNNING, one STOP WAITING in slot 0. -/
def stopReady : State := withEntry 0 (entryIn .waiting .stop) (withPump 0 (inState .running) ready)

/-! ### Well-formed commands -/

theorem test_cancelRequest_other_request_refused : Instr.wellFormed (.cancelRequest 0x11007 0xB000) = false := by decide

theorem test_cancelRequest_cancel_accepted : Instr.wellFormed (.cancelRequest 0x11007 0xC000) = true := by decide

theorem test_unknownCommand_named_refused :
    Instr.wellFormed (.unknownCommand 1) = false ∧ Instr.wellFormed (.unknownCommand 7) = false := by decide

theorem test_unknownCommand_unnamed_accepted :
    Instr.wellFormed (.unknownCommand 0) = true ∧ Instr.wellFormed (.unknownCommand 8) = true := by decide

/-! ### Layouts, worked out by hand from chapter 11 -/

/-- 13:05 is 1305H, and 2460H names no time of day. -/
theorem test_time_of_day_field :
    timeField 0x1305 = some 47100 ∧ timeField 0x2460 = none ∧ presentTime 47159 = 0x1305 := by decide

theorem test_status_words : entryStatusWord (entryIn .waiting .start) = 0x0101
    ∧ statusWord true .released .none = 0x0A00 := by decide

theorem test_link_image : [0, 1, 2, 5].map (linkImage (stopFor 3 0) 6) = [0x3203, 0x0703, 0, 6] := by decide

theorem test_status_block_words : [0, 9, 17].map (statusBlockWord ready) = [3, 0x8040, 1] := by decide +kernel

/-- STOPPED, one WAITING order, allowance 3. -/
theorem test_pump_word : statusBlockWord ready 32 = 0x01A1 := by decide +kernel

/-! ### Effects on small states -/

def after (c : Instr) (s : State) : State :=
  match exec c s with
  | .next t => t
  | .fault _ => s
  | .refused _ => s

theorem test_release_reads_image_word_0 :
    (after (.resetnRelease 3) State.reset).bpu.memPort.map (fun m => (m.addr, m.timeout)) = some (0x30000, 64) := by
  decide +kernel

theorem test_short_start_admitted :
    admission plant live shortStart = .ok
      { form := .short, action := .start, pump := 0, priority := 3, earliest := 100, latest := 700, run := 60, tag := 5 } := by
  decide +kernel

theorem test_release_pass_releases_the_start :
    let t := after .releasePass (ready.setRa { requests := 1 })
    ((t.ob.at 0).state, t.rt.release, (t.psu.pumps.at 0).state, t.psu.groups.at 0) =
      (.released, 1, .startSent, .armed 0 0) := by decide +kernel

theorem test_trip_raised_at_low_suction :
    (evaluatePump plant 0 (withLevels 99 500 (withPump 0 (inState .running) live))).ilu.store.at 0 =
      .waiting { pump := 0, kind := .tripStop, cause := .lowSuction, raised := 100, seq := 0 } := by decide +kernel

theorem test_link_read_is_redirected :
    decodeCycle (indexes 1 0 1 0 [{ origin := .host 4, grant := 60 }] live) (cycleOf 0x11002 false .link 0) =
      .memory (.redirect 0x11022) := by decide +kernel

theorem test_second_boundary_at_half_hour :
    (after .secondBoundary (atNow 1799 5 live)).cbu =
      { clockSet := true, now := 1800, divider := 0, band := 1, tally := 0, capReached := false } := by decide +kernel

/-- A full store, pumps 3 and 6 found stopped, the stop for pump 6 raised first: its entry 5 is freed first and takes the
stop owed for pump 10, so entry 2 stays FREE (R116, R123). -/
theorem test_first_raised_is_judged_first :
    (let s := fullStore (withPump 3 (inState .stopped) (withPump 6 (inState .stopped) live))
     let s := withStore 5 (.waiting { stopFor 6 5 with raised := 80 }) (s.setIlu { s.ilu with
       owed := s.ilu.owed.put 10 (some .timed) })
     let u := withdrawAll plant 8 s
     u.ilu.store.at 2 == .free && (storeOrder (u.ilu.store.at 5)).any fun o => o.pump == 10) = true := by decide +kernel

theorem test_now_returns_to_0 : (advanceNow (atNow 4294943999 0 live)).cbu.now = 0 := by decide +kernel

/-! ### The hypotheses of the obligations are met: the step and time -/

theorem witness_EmptyQueueIsOneTrefEdge :
    (State.reset.pending = [] ∧ State.reset.cbu.clockSet = false)
    ∧ ((atNow 100 32766 live).pending = [] ∧ (atNow 100 32766 live).cbu.clockSet = true
        ∧ (atNow 100 32766 live).cbu.divider + 1 < 32768)
    ∧ ((atNow 100 32767 live).pending = [] ∧ (atNow 100 32767 live).cbu.clockSet = true
        ∧ (atNow 100 32767 live).cbu.divider = 32767) := by decide +kernel

theorem witness_ResetnAssertAndRelease :
    State.reset.bpu = State.reset.bpu ∧ State.reset.iml = State.reset.iml ∧ live.bpu.resetn = false := by decide +kernel

/-- Boundaries onto a band, off one, onto a minute that hits the cap, and a cap already reached. -/
theorem witness_SecondBoundaryAdvancesClock :
    ((atNow 1799 0 live).cbu.clockSet = true ∧ (1799 + 1) % 86400 % 1800 = 0)
    ∧ (live.cbu.clockSet = true ∧ (100 + 1) % 86400 % 1800 ≠ 0)
    ∧ (let s := (atNow 119 0 live).setCbu { live.cbu with now := 119, tally := 16 }
       s.cbu.clockSet = true ∧ (119 + 1) % 86400 % 60 = 0 ∧ bandCap s ≠ 0
        ∧ bandCap s * 16 ≤ min (s.cbu.tally + minuteSum s) 16777215 ∧ s.cbu.capReached = false) := by decide +kernel

theorem witness_SecondBoundaryHandedOn :
    let s := withGroup 1 (.guard 1 4 timedOut) (freshHouse (atNow 3599 0 live))
    s.cbu.clockSet = true ∧ s.psu.groups.at 1 = .guard 1 4 timedOut ∧ s.psu.groups.at 0 = .quiet
      ∧ (s.rsu.houses.at 0).freshness = .fresh timedOut ∧ (s.rsu.houses.at 1).freshness = .never
      ∧ (s.cbu.now + 1) % 3600 = 0 := by decide +kernel

theorem witness_ConfirmExpiryLocksOut :
    let s := withPump 1 { inState .stopping with confirm := some timedOut }
      (withPump 0 { inState .starting with confirm := some timedOut } live)
    ((s.psu.pumps.at 0).state = .starting ∧ (s.psu.pumps.at 0).confirm = some timedOut)
    ∧ ((s.psu.pumps.at 1).state = .stopping ∧ (s.psu.pumps.at 1).confirm = some timedOut) ∧ timedOut.due = true := by
  decide +kernel

def runDown : State := withPump 0 { inState .running with runEnd := some timedOut } live

/-- The pump holds an entry; the store is full; entry 0 is FREE. -/
theorem witness_RunEndHandsOverPump :
    (runDown.psu.pumps.at 0).state = .running ∧ (runDown.psu.pumps.at 0).runEnd = some timedOut ∧ timedOut.due = true
    ∧ (∀ q, q < (0 : Fin 32) → runEndDue (runDown.psu.pumps.at q) = false)
    ∧ holdsEntry (withStore 0 (.waiting (stopFor 0 0)) runDown) 0 = true
    ∧ (holdsEntry (fullStore runDown) 0 = false ∧ ∀ e, (fullStore runDown).ilu.store.at e ≠ .free)
    ∧ (holdsEntry runDown 0 = false ∧ runDown.ilu.store.at 0 = .free
        ∧ ∀ f, f < (0 : Fin 8) → runDown.ilu.store.at f ≠ .free) := by decide +kernel

theorem witness_GuardAndStaleExpiries :
    (withGroup 0 (.guard 0 7 timedOut) live).psu.groups.at 0 = .guard 0 7 timedOut
    ∧ ((freshHouse live).rsu.houses.at 0).freshness = .fresh timedOut ∧ timedOut.due = true := by decide +kernel

/-! ### The release pass -/

/-- A WAITING entry of the store when a requested pass begins. -/
def storing (e : Fin 8) (o : InternalOrder) (s : State) : State :=
  ((withStore e (.waiting o) s).setIlu { (withStore e (.waiting o) s).ilu with nextSeq := o.seq + 1 }).setRa { requests := 1 }

/-- No request; no tables; an order whose latest start, 200, is just below now; nothing late and an order that wins; an internal entry that wins; an order that wins with an entry WAITING for an ARMED
group; an order refused at evaluation. -/
theorem witness_ReleasePassRuns :
    State.reset.ra.requests = 0
    ∧ (let s := State.reset.setRa { requests := 1 }
     s.ra.requests = 0 + 1 ∧ s.tables = none)
    ∧ (let s := (atNow 201 0 ready).setRa { requests := 1 }
       s.ra.requests = 0 + 1 ∧ s.tables = some plant
        ∧ waitingOrder (s.ob.at 0) = some (orderTo .start) ∧ isBelow (orderTo .start).latest s.cbu.now = true)
    ∧ (let s := (atNow 200 0 ready).setRa { requests := 1 }
       (∀ k, (waitingOrder (s.ob.at k)).all (fun o => !isBelow o.latest s.cbu.now) = true)
        ∧ (∀ e, s.ilu.store.at e = .free) ∧ hostWinner plant s = some (0, orderTo .start))
    ∧ (let s := storing 2 (stopFor 0 0) stopReady
       s.ra.requests = 0 + 1 ∧ s.tables = some plant
        ∧ internalWinner plant s.ilu.nextSeq s = some (2, stopFor 0 0))
    ∧ (let s := storing 2 (stopFor 4 0) (withPump 4 (inState .running) (withGroup 1 (.armed 1 0) ready))
       (∀ e, s.ilu.store.at e = if e = 2 then .waiting (stopFor 4 0) else .free) ∧ withdrawn s 4 = false
        ∧ internalWinner plant s.ilu.nextSeq s = none ∧ hostWinner plant s = some (0, orderTo .start))
    ∧ judgeHost plant (withPump 0 (inState .running) ready) 0 (orderTo .start) = .refuse .alreadyRunning := by
  decide +kernel

theorem witness_PassOutsideRunHoldsEveryOrder :
    let s := (withEntry 0 (entryIn .waiting .start) (atNow 200 0 live)).setRa { requests := 1 }
    s.ra.requests = 0 + 1 ∧ s.tables = some plant ∧ s.csu.sched ≠ .run
    ∧ (∀ k, (waitingOrder (s.ob.at k)).all (fun o => !isBelow o.latest s.cbu.now) = true)
    ∧ (waitingOrder (s.ob.at 0)).isSome = true ∧ (∀ e, s.ilu.store.at e = .free) := by decide +kernel

/-- A START and a STOP that pass every check, and for each check one that fails it and none before. -/
theorem witness_EligibleExactlyWhenEveryCheckPasses :
    judgeHost plant ready 0 (orderTo .start) = .eligible ∧ judgeHost plant stopReady 0 (orderTo .stop) = .eligible
    ∧ ([ready.setCsu { ready.csu with sched := .hold }, withEntry 0 Entry.reset ready, atNow 99 0 ready,
        withPump 0 { inState .stopped with rest := some 101 } ready, withPump 0 { inState .stopped with allowance := 0 } ready,
        ready.setRsu { ready.rsu with houses := Tab.all HouseRec.reset },
        ready.setRsu { ready.rsu with houses := Tab.all { HouseRec.reset with
          freshness := .fresh timedOut, localControl := true } },
        withGroup 0 (.armed 0 0) ready, withStore 2 (.waiting (stopFor 0 0)) ready,
        withLevels 199 500 ready, indexes 1 0 8 0 [] ready].map fun s => judgeHost plant s 0 (orderTo .start))
      = [.held, .queue, .notYet, .rest, .allowance, .stale, .localControl, .guard, .interlock, .level, .room].map
          Judgement.hold
    ∧ judgeHost { plant with limits := Tab.all 99 } ready 0 (orderTo .start) = .hold .load
    ∧ judgeHost { plant with limits := Tab.all 100 } ready 0 (orderTo .start) = .eligible
    ∧ (let capped := ready.setCbu { ready.cbu with capReached := true }
       judgeHost plant ready 0 { orderTo .start with priority := 1 } = .hold .floor
        ∧ judgeHost plant capped 0 { orderTo .start with priority := 5 } = .hold .cap
        ∧ judgeHost plant capped 0 { orderTo .start with priority := 6 } = .eligible)
    ∧ ([withPump 0 { inState .running with minRun := some 101 } stopReady, withGroup 0 (.armed 0 0) stopReady,
        indexes 1 0 8 0 [] stopReady].map fun s => judgeHost plant s 0 (orderTo .stop))
      = [.minRun, .guard, .room].map Judgement.hold := by
  decide +kernel

/-- Every state of the pump, for a START and for a STOP. -/
theorem witness_PumpStateDecidesVerdict :
    [PumpState.unknown, .stopped, .startSent, .starting, .running, .stopSent, .stopping, .lockout].all (fun x =>
      (let s := withPump 0 (inState x) ready
       s.csu.sched == .run && isHead plant s 0 0 && reached (orderTo .start).earliest s.cbu.now)
      && (let s := withPump 0 (inState x) stopReady
          s.csu.sched == .run && isHead plant s 0 0 && reached (orderTo .stop).earliest s.cbu.now)) = true := by
  decide +kernel

/-- One internal entry eligible; none, and one host order eligible; none of either; an order refused, and none. -/
theorem witness_WinnerRule :
    (let s := withStore 2 (.waiting (stopFor 0 0)) stopReady
     internalWinner plant 1 s = some (2, stopFor 0 0)
      ∧ internalWinner plant 1 (withdrawAll plant 1 s) = some (2, stopFor 0 0))
    ∧ (internalWinner plant 1 (withdrawAll plant 1 ready) = none
        ∧ hostWinner plant (withdrawAll plant 1 ready) = some (0, orderTo .start))
    ∧ (internalWinner plant 1 (withdrawAll plant 1 live) = none ∧ hostWinner plant (withdrawAll plant 1 live) = none)
    ∧ refusesAny plant (withPump 0 (inState .running) ready) = true ∧ refusesAny plant ready = false := by
  decide +kernel

/-- A pump in each state a release finds; no, one and two entries to withdraw, the lower raised first and the higher. -/
theorem witness_ReleaseEffects :
    ((orderTo .start).action = .start ∧ (ready.psu.pumps.at 0).state = .stopped ∧ ready.psu.groups.at 0 = .quiet)
    ∧ ((orderTo .stop).action = .stop ∧ (stopReady.psu.pumps.at 0).state = .running ∧ stopReady.psu.groups.at 0 = .quiet)
    ∧ [PumpState.running, .starting, .lockout].all (fun x =>
        let s := withPump 0 (inState x) live
        (s.psu.pumps.at (stopFor 0 0).pump).state == x && s.psu.groups.at 0 == .quiet) = true
    ∧ withdrawals live 1 = []
    ∧ (let s := withPump 1 (inState .lockout) (withPump 0 (inState .stopped) live)
       withdrawals (withStore 2 (.waiting (stopFor 0 0)) s) 1 = [2]
        ∧ withdrawals (withStore 5 (.waiting (stopFor 1 0)) (withStore 2 (.waiting (stopFor 0 0)) s)) 1 = [2, 5]
        ∧ withdrawals (withStore 5 (.waiting { stopFor 1 0 with raised := 80 }) (withStore 2 (.waiting (stopFor 0 0)) s)) 1
            = [5, 2]
        ∧ withdrawals (withStore 5 (.waiting (stopFor 1 0)) (withStore 2 (.waiting (stopFor 0 1)) s)) 2 = [5, 2]) := by
  decide +kernel

theorem witness_StartStaysWithinFeederLimit :
    (orderTo .start).action = .start ∧ judgeHost plant ready 0 (orderTo .start) = .eligible := by decide +kernel

theorem witness_PassEndsWithin73Rounds :
    73 ≤ 73 ∧ (let s := ready.setRa { requests := 1 }
      s.ra.requests = 0 + 1 ∧ s.tables = some plant ∧ ∃ u, exec .releasePass s = .next u) :=
  ⟨by decide, rfl, rfl, _, rfl⟩

def owing (p : Fin 32) (c : Cause) (s : State) : State := s.setIlu { s.ilu with owed := s.ilu.owed.put p (some c) }

/-- No flag to take in; a full store; one flag taken in; a trip flag whose condition holds, and one whose does not. -/
theorem witness_TakeInLeavesNothingToTake :
    (takeIn plant live).ilu.owed = live.ilu.owed
    ∧ (∀ e, (fullStore (owing 0 .fault live)).ilu.store.at e ≠ .free)
    ∧ (takeIn plant (owing 4 .timed live)).ilu.owed ≠ (owing 4 .timed live).ilu.owed
    ∧ (let s := owing 0 .highDelivery (withLevels 99 500 (withPump 0 (inState .running) live))
       LowestFree s 0 ∧ s.ilu.owed.at 0 = some .highDelivery ∧ (s.psu.pumps.at 0).state ≠ .startSent
        ∧ tripCause plant s 0 = some .lowSuction)
    ∧ tripCause plant (owing 0 .fault live) 0 = none := by
  unfold LowestFree
  decide +kernel

/-! ### Orders -/

theorem witness_flying (o : MemOutcome) (v : Word) (s : State) : InFlight (flying o v s) (flight o v) o :=
  ⟨rfl, rfl, portOf .master, rfl, rfl⟩

theorem witness_snoop (x : SnoopTarget) (v : Word) (s : State) :
    SnoopInFlight (flying (.snoop x) v s) (flight (.snoop x) v) x := ⟨witness_flying _ _ _, rfl⟩

def submitting (e : Entry) (v : Word) : State := flying (.snoop .submitWord) v (withEntry 0 e live)

/-- Slots 0 to 2 hold each a good order for pump 0. -/
def threeOrders : State := withEntry 1 shortStart (withEntry 2 shortStart (submitting shortStart 3))

/-- Submit stands at 0: a write of 0, a write of 1 over a good order, a write of 1 over an empty slot, a write of 3 over
three orders for one pump. -/
theorem witness_SubmitAdvanceTaken :
    (∀ e v, SnoopInFlight (submitting e v) (flight (.snoop .submitWord) v) .submitWord)
    ∧ (submitting shortStart 0).tables = some plant
    ∧ (flight (.snoop .submitWord) 0).cycle.data = (submitting shortStart 0).rt.submit
    ∧ (flight (.snoop .submitWord) 1).cycle.data = (submitting shortStart 1).rt.submit + 1
    ∧ (admission plant (submitting shortStart 1) ((submitting shortStart 1).ob.at 0)).isOk = true
    ∧ (admission plant (submitting Entry.reset 1) ((submitting Entry.reset 1).ob.at 0)).isOk = false
    ∧ (SnoopInFlight threeOrders (flight (.snoop .submitWord) 3) .submitWord ∧ threeOrders.tables = some plant
        ∧ (3 - threeOrders.rt.submit).toNat = 3) :=
  ⟨fun _ _ => witness_snoop _ _ _, rfl, rfl, rfl, by decide +kernel, by decide +kernel, witness_snoop _ _ _, rfl, rfl⟩

/-- The third of them sees the two admitted before it. -/
theorem test_admissions_in_order :
    let x := acknowledgeSnoop isSubmit threeOrders
    (x.ob.at 0).state = .waiting ∧ (x.ob.at 1).state = .waiting ∧ (x.ob.at 2).state = .refused
      ∧ (x.ob.at 2).reason = .queueFull ∧ flagSet x .orderRefused = true := by decide +kernel

def refusedFor (s : State) (e : Entry) : Option Reason :=
  match admission plant s e with
  | .error r => some r
  | .ok _ => none

/-- An order that meets each line of the table in turn, the last before it passing: forms 3, actions 3, pump 9 of 9,
minute field 60, run minutes 1441 and 1440, two and one WAITING. -/
theorem witness_AdmissionChecksInOrder :
    refusedFor State.reset shortStart = some .clockNotSet
    ∧ refusedFor live (recordedAs 0x1100 0x0300 1 5 0 |> fun e => { e with words := e.words.put 3 none }) = some .incomplete
    ∧ refusedFor live (recordedAs 0x3100 0 1 0 0) = some .badForm
    ∧ refusedFor live (recordedAs 0x1300 0 1 0 0) = some .badAction
    ∧ refusedFor live (recordedAs 0x1109 0 1 0 0) = some .badPump
    ∧ refusedFor live (recordedAs 0x2108 0 0x0060 0x0100 0) = some .badTime
    ∧ refusedFor live (recordedAs 0x2108 0 0x0001 0x0100 1441) = some .badField
    ∧ refusedFor live (recordedAs 0x2108 0 0x0000 0x0001 1440) = some .tooLate
    ∧ refusedFor (withEntry 1 (entryIn .waiting .stop) (withEntry 2 (entryIn .waiting .start) live))
        (recordedAs 0x2100 0 0x0001 0x0002 1440) = some .queueFull
    ∧ refusedFor (withEntry 1 (entryIn .waiting .stop) live) (recordedAs 0x2100 0 0x0001 0x0002 1440) = none
    ∧ refusedFor live (recordedAs 0x2208 0 0x0001 0x0002 1441) = none := by decide +kernel

/-- The shortest and the longest window, an order of each admitted at offset 0 and 255. -/
theorem witness_ShortFormTimes :
    live.cbu.now < 4294944000
    ∧ [60, 7200].all (fun w => [0x0300, 0x03FF].all fun w1 =>
        ((admission { plant with defaultWindow := w } live (recordedAs 0x1100 w1 1 5 0)).toOption.any fun o =>
          o.form == .short)) = true := by decide +kernel

/-- 23:59 is valid, 24:00 and 23:60 are not; a long form and a short form past the checks before. -/
theorem witness_TimeOfDayFields :
    timeField 0x2359 = some 86340 ∧ timeField 0x2400 = none ∧ timeField 0x2360 = none
    ∧ live.cbu.clockSet = true
    ∧ [recordedAs 0x2108 0 0x0060 0x0100 0, recordedAs 0x1108 0 0x0060 0x0100 0].all (fun e =>
        ((List.finRange 6).all fun w => (e.words.at w).isSome) && recorded e 0 / 256 % 16 == 1
          && decide ((recorded e 0 % 256).toNat < plant.pumpCount.val)) = true := by decide +kernel

/-- Slot 63's last word and slot 0's first; house 0's words 0 and 6. -/
theorem witness_SnoopedWordsRecorded :
    (∀ k w v, SnoopInFlight (flying (.snoop (.slotWord k w)) v live) (flight (.snoop (.slotWord k w)) v) (.slotWord k w))
    ∧ (∀ h w v, SnoopInFlight (flying (.snoop (.reportWord h w)) v live) (flight (.snoop (.reportWord h w)) v)
        (.reportWord h w))
    ∧ (∀ o v, (flying o v live).tables.isSome = true) :=
  ⟨fun _ _ _ => witness_snoop _ _ _, fun _ _ _ => witness_snoop _ _ _, fun _ _ => rfl⟩

theorem witness_accepting : Accepting live ∧ Accepting ready := ⟨⟨rfl, rfl, rfl⟩, rfl, rfl, rfl⟩

/-- Word 7 of the ring's first slot and of its last, in each state a submitted order can have. -/
theorem witness_CancelRequestTaken :
    RingWord plant live 0x11007 0 7 ∧ RingWord plant live 0x1103F 7 7 ∧ (0xC000 : Word).toNat / 4096 = 12
    ∧ ∀ x : EntryState, ((withEntry 7 (entryIn x .start) live).ob.at 7).state = x := by
  refine ⟨⟨by decide, by decide, by decide, Or.inr (by decide +kernel)⟩,
    ⟨by decide, by decide, by decide, Or.inr (by decide +kernel)⟩, by decide, ?_⟩
  intro x
  cases x <;> decide +kernel

/-- A START released at position 0, its pump START_SENT, its group ARMED. -/
def outstanding (v : Word) : State :=
  flying (.snoop .takeWord) v
    (indexes 1 0 1 0 [{ origin := .host 0, grant := 100 }] (withEntry 0 (entryIn .released .start)
      (withGroup 0 (.armed 0 0) (withPump 0 (inState .startSent) live))))

/-- Take stands at 0: a write of 0 and a write of 1; slot 0 dispatched by the second, slot 1 not. -/
theorem witness_TakeAdvanceTaken :
    (∀ v, SnoopInFlight (outstanding v) (flight (.snoop .takeWord) v) .takeWord) ∧ (outstanding 0).tables = some plant
    ∧ (flight (.snoop .takeWord) 0).cycle.data = (outstanding 0).rt.take
    ∧ (flight (.snoop .takeWord) 1).cycle.data ≠ (outstanding 1).rt.take
    ∧ ((outstanding 1).ob.at 0).state = .released ∧ ((outstanding 1).ob.at 1).state ≠ .released
    ∧ (outstanding 1).rt.list.take 1 = [{ origin := .host 0, grant := 100 }] :=
  ⟨fun _ => witness_snoop _ _ _, rfl, rfl, by decide +kernel⟩

/-- Position 0 taken, with this origin at the head of the list and pump 0 in this state. -/
def takingOne (origin : Origin) (a : Action) (x : PumpState) (s : State) : State :=
  flying (.snoop .takeWord) 1
    (indexes 1 0 1 0 [{ origin, grant := 100 }] (withEntry 0 (entryIn .released a)
      (withGroup 0 (.armed 0 0) (withPump 0 (inState x) s))))

/-- A START for pump 0 RELEASED in slot 0 at position 0, and a stop for pump 4 in entry 3 at position 1. -/
def twoReleased : State :=
  indexes 1 0 2 0 [{ origin := .host 0, grant := 100 }, { origin := .internal 3, grant := 100 }]
    (withEntry 0 { entryIn .released .start with grant := some 100 } (withGroup 0 (.armed 0 0)
      (withPump 0 (inState .startSent) (withStore 3 (.released (stopFor 4 0) 100) (withGroup 1 (.armed 1 1)
        (withPump 4 (inState .stopSent) live))))))

/-- Both positions taken: each pump and each group by its own notice. -/
theorem test_two_positions_taken :
    let x := acknowledgeSnoop isTake (flying (.snoop .takeWord) 2 twoReleased)
    (x.psu.pumps.at 0).state = .starting ∧ (x.psu.pumps.at 4).state = .stopping
      ∧ x.psu.groups.at 0 = .guard 0 0 { expiry := 105, due := false }
      ∧ x.psu.groups.at 1 = .guard 1 1 { expiry := 105, due := false }
      ∧ x.ilu.store.at 3 = .free ∧ x.ob.at 0 = Entry.reset ∧ x.rt.list = [] := by decide +kernel

/-- A START and a STOP in the state each awaits and in LOCKOUT; a START with a flag to take in, the store free and full;
an internal stop; two positions. -/
theorem witness_TakenPositionsDispatchedInOrder :
    (∀ origin a x s, SnoopInFlight (takingOne origin a x s) (flight (.snoop .takeWord) 1) .takeWord)
    ∧ (∀ origin a x, (takingOne origin a x live).tables = some plant
        ∧ (flight (.snoop .takeWord) 1).cycle.data ≠ (takingOne origin a x live).rt.take
        ∧ (takingOne origin a x live).rt.list = [{ origin, grant := 100 }])
    ∧ [(Action.start, PumpState.startSent), (.start, .lockout), (.stop, .stopSent), (.stop, .lockout)].all (fun (a, x) =>
        let s := takingOne (.host 0) a x live
        (s.ob.at 0).state == .released && (s.ob.at 0).order == some (orderTo a) && (orderTo a).action == a
          && (s.psu.pumps.at 0).state == x && s.psu.groups.at 0 == .armed 0 s.rt.take && (s.ilu.owed.at 0).isNone) = true
    ∧ (let s := takingOne (.host 0) .start .startSent (owing 0 .fault live)
       s.ilu.owed.at 0 = some .fault ∧ LowestFree s 0)
    ∧ (let s := takingOne (.host 0) .start .startSent (fullStore (owing 0 .fault live))
       s.ilu.owed.at 0 = some .fault ∧ ∀ e, s.ilu.store.at e ≠ .free)
    ∧ (takingOne (.internal 3) .stop .stopSent (withStore 3 (.released (stopFor 0 0) 100) live)).ilu.store.at 3 =
        .released (stopFor 0 0) 100
    ∧ (let s := flying (.snoop .takeWord) 2 twoReleased
       s.tables = some plant ∧ ((2 : Word) - s.rt.take).toNat = 2 ∧ (s.ob.at 0).state = .released
        ∧ (s.ob.at 0).order = some (orderTo .start) ∧ s.ilu.store.at 3 = .released (stopFor 4 0) 100) := by
  refine ⟨fun _ _ _ _ => witness_snoop _ _ _, fun _ _ _ => ⟨rfl, show (1 : Word) ≠ 0 by decide, rfl⟩, ?_⟩
  unfold LowestFree
  decide +kernel

/-! ### Reports and trips -/

def reporting (last : Option Word) (b : AssemblyBuffer) (q : Word) : State :=
  flying (.snoop (.sequenceWord 0)) q (withBuffer last b live)

/-- An empty buffer; a full one with the sequence committed last. -/
theorem witness_SequenceWordNotCommitted :
    (∀ last b q, SnoopInFlight (reporting last b q) (flight (.snoop (.sequenceWord 0)) q) (.sequenceWord 0)
        ∧ (reporting last b q).tables.isSome = true)
    ∧ ((reporting none AssemblyBuffer.clear 4).rsu.houses.at 0).buffer.clockSeen = false
    ∧ ((reporting (some 4) fullBuffer 4).rsu.houses.at 0).buffer = fullBuffer
    ∧ ((reporting (some 4) fullBuffer 4).rsu.houses.at 0).lastSequence = some 4
    ∧ fullBuffer.clockSeen = true ∧ ∀ w, fullBuffer.words.at w ≠ none :=
  ⟨fun _ _ _ => ⟨witness_snoop _ _ _, rfl⟩, by decide +kernel, by decide +kernel, by decide +kernel, rfl,
    by decide +kernel⟩

/-- A full buffer with another sequence; pump 0 is of house 0 and pump 4 is not. -/
theorem witness_SequenceWordCommits :
    let s := reporting (some 4) fullBuffer 5
    SnoopInFlight s (flight (.snoop (.sequenceWord 0)) 5) (.sequenceWord 0) ∧ s.tables = some plant
    ∧ (s.rsu.houses.at 0).buffer = fullBuffer ∧ (s.rsu.houses.at 0).lastSequence ≠ some 5
    ∧ (configured plant 0 = true ∧ (plant.pumps.at 0).house = 0)
    ∧ ¬ (configured plant 4 = true ∧ (plant.pumps.at 4).house = 0) :=
  ⟨witness_snoop _ _ _, rfl, by decide +kernel, by decide +kernel, by decide +kernel, by decide +kernel⟩

/-- A record in every state. -/
theorem witness_CommitReachesPump (x : PumpState) : (inState x).state = x := rfl

def lowPump (x : PumpState) : State := withLevels 99 500 (withPump 0 (inState x) live)

/-- Each condition of R117 alone, and none at the trip level and just below the high level; a stop outstanding; a stop owed
twice over; entry 0 FREE, and entry 1 the first. -/
theorem witness_EvaluationPlacesTheStop :
    (lowPump .stopSent).psu.pumps.at 0 = inState .stopSent
    ∧ tripCause plant (withLevels 100 899 (lowPump .running)) 0 = none
    ∧ tripCause plant (withLevels 100 900 (lowPump .running)) 0 = some .highDelivery
    ∧ (let s := lowPump .lockout
       tripCause plant (s.setRsu { s.rsu with runningBits := s.rsu.runningBits.put 0 true,
                                              faultBits := s.rsu.faultBits.put 0 true }) 0 = some .fault)
    ∧ (holdsEntry (lowPump .startSent) 0 = false ∧ tripCause plant (lowPump .startSent) 0 = some .lowSuction)
    ∧ (holdsEntry (fullStore (lowPump .running)) 0 = false
        ∧ tripCause plant (fullStore (lowPump .running)) 0 = some .lowSuction
        ∧ ∀ e, (fullStore (lowPump .running)).ilu.store.at e ≠ .free)
    ∧ (let s := withStore 0 (.waiting (stopFor 3 0)) (lowPump .running)
       holdsEntry s 0 = false ∧ tripCause plant s 0 = some .lowSuction ∧ (s.psu.pumps.at 0).state ≠ .startSent
        ∧ s.ilu.store.at 1 = .free ∧ ∀ f, f < (1 : Fin 8) → s.ilu.store.at f ≠ .free) := by decide +kernel

/-! ### The bus -/

/-- The addresses: the first and the last word of the ring and of the report area, and the two index words. -/
theorem witness_mapped_addresses :
    RingWord plant live 0x11000 0 0 ∧ RingWord plant live 0x1103F 7 7 ∧ SubmitWord plant live 0x12000
    ∧ TakeWord plant live 0x12010 ∧ ReportAreaWord plant live 0x13000 0 0 ∧ ReportAreaWord plant live 0x13017 2 7 := by
  unfold RingWord SubmitWord TakeWord ReportAreaWord OutsideStation
  refine ⟨?_, ?_, ?_, ?_, ?_, ?_⟩ <;> decide +kernel

/-- The addresses just past the ring and the report area; the first and the last word of the image area and of the status
block. -/
theorem witness_other_addresses :
    (Unmapped plant 0x11040 ∧ OutsideStation live 0x11040) ∧ (Unmapped plant 0x13018 ∧ OutsideStation live 0x13018)
    ∧ ImageAreaWord live 0 ∧ ImageAreaWord live 3583 ∧ StatusBlockWord live 3584 0 ∧ StatusBlockWord live 3647 63 := by
  unfold Unmapped OutsideStation ImageAreaWord StatusBlockWord
  refine ⟨?_, ?_, ?_, ?_, ?_, ?_⟩ <;> decide +kernel

/-- The live part with an upstream cycle held by a stall. -/
def heldCycle (c : Cycle) (s : State) : State :=
  s.setBpu { s.bpu with upstream := some { cycle := c, stage := .held, abandoned := false } }

/-- A free port; a busy one; an answered read; each kind of stall; a stall just over, and none; a slot in each state; a
host order and an internal one at positions 0 and 1; legal advances of 0 and of all there is; HOLD and UNLOADED. -/
theorem witness_PassedCycleCarriedOut :
    (Accepting live ∧ decodeCycle live (cycleOf 0x11000 false .host 0) = .memory .pass ∧ live.bpu.memPort = none
      ∧ loaderAddr live = none)
    ∧ (let s := loading .reload .body (some .hold) 40 none (live.setCsu { live.csu with sched := .reloading })
       Accepting s ∧ decodeCycle s (cycleOf 0x11000 false .host 0) = .memory .pass ∧ s.bpu.memPort.isSome = true)
    ∧ (Accepting live ∧ decodeCycle live (cycleOf 0x12010 false .host 0) = .answer 0)
    ∧ (let s := State.reset.setBpu { Bpu.reset with resetn := false }
       s.bpu.resetn = false ∧ s.bpu.upstream = none ∧ s.csu.sched = .loading)
    ∧ (let s := live.setBpu { live.bpu with indexStall := true }
       s.bpu.resetn = false ∧ s.bpu.upstream = none ∧ s.bpu.indexStall = true)
    ∧ (let s := heldCycle (cycleOf 0x11000 false .host 0) live
       s.bpu.resetn = false ∧ stalled s = false ∧ s.bpu.upstream.isSome = true ∧ live.bpu.upstream = none)
    ∧ (∀ x : EntryState, ((withEntry 7 { entryIn x .start with grant := some 100 } live).ob.at 7).state = x)
    ∧ (let s := indexes 0 0 2 0 [{ origin := .host 4, grant := 60 }, { origin := .internal 6, grant := 70 }]
          (withStore 6 (.released (stopFor 0 0) 70) live)
       Accepting s ∧ slotOf plant.map.ringSize (s.rt.take + BitVec.ofNat 16 1) = 1 ∧ 1 < (s.rt.release - s.rt.take).toNat
        ∧ storeOrder (s.ilu.store.at 6) = some (stopFor 0 0)
        ∧ ((2 : Word) - s.rt.take).toNat ≤ (s.rt.release - s.rt.take).toNat)
    ∧ ((8 : Word) - live.rt.submit).toNat ≤ plant.map.ringSize.slots - (live.rt.submit - live.rt.reclaim).toNat
    ∧ (let s := (State.reset.setBpu { Bpu.reset with resetn := false }).setCsu { Csu.reset with sched := .unloaded }
       Accepting s ∧ s.tables = none ∧ s.csu.sched = .unloaded ∧ ImageAreaWord s 0) := by
  refine ⟨⟨witness_accepting.1, by decide +kernel, rfl, rfl⟩, ⟨⟨rfl, rfl, rfl⟩, by decide +kernel, rfl⟩,
    ⟨witness_accepting.1, by decide +kernel⟩, ⟨rfl, rfl, rfl⟩, ⟨rfl, rfl, rfl⟩, ⟨rfl, rfl, rfl, rfl⟩, ?_,
    ⟨⟨rfl, rfl, rfl⟩, by decide +kernel⟩, by decide +kernel, ⟨rfl, rfl, rfl⟩, rfl, rfl, by decide, by decide⟩
  intro x
  cases x <;> decide +kernel

/-- A reload of the live part in its INDEX phase, its submit word read or not. -/
def indexing (submit : Option Word) (s : State) : State :=
  loading .reload .index (some .hold) 207 submit
    ((s.setCsu { s.csu with sched := .reloading }).setBpu { s.bpu with indexStall := true })

/-- The part in LOADING with a read of its load in flight. -/
def poweringOn (phase : LoadPhase) (next : Nat) (submit : Option Word) : State :=
  loading .powerOn phase none next submit (State.reset.setBpu { Bpu.reset with resetn := false })

theorem witness_loaderReads (kind : LoadKind) (phase : LoadPhase) (origin : Option LoadOrigin) (next : Nat)
    (submit : Option Word) (s : State) : LoaderReads (loading kind phase origin next submit s) :=
  ⟨portOf .loader, rfl, rfl⟩

theorem witness_MemoryAcknowledgeEndsCycle :
    InFlight (flying .pass 5 live) (flight .pass 5) .pass ∧ (∀ x, MemOutcome.pass ≠ .snoop x)
    ∧ InFlight (flying (.redirect 7) 5 live) (flight (.redirect 7) 5) (.redirect 7)
    ∧ (∀ x, MemOutcome.redirect 7 ≠ .snoop x)
    ∧ (∀ phase, LoaderReads (poweringOn phase 40 none) ∧ (poweringOn phase 40 none).iml.phase = phase)
    ∧ (let s := poweringOn .index 207 (some 9)
       LoaderReads s ∧ s.iml.phase = .index ∧ s.iml.indexSubmit ≠ none ∧ s.iml.kind = .powerOn)
    ∧ (let s := indexing (some 9) live
       LoaderReads s ∧ s.iml.phase = .index ∧ s.iml.indexSubmit ≠ none ∧ s.iml.kind = .reload) :=
  ⟨witness_flying _ _ _, by simp, witness_flying _ _ _, by simp, fun _ => ⟨witness_loaderReads _ _ _ _ _ _, rfl⟩,
    ⟨witness_loaderReads _ _ _ _ _ _, rfl, by decide, rfl⟩, witness_loaderReads _ _ _ _ _ _, rfl, by decide, rfl⟩

/-- A master's cycle; a fetch read of a power-on load; an index read of a reload. -/
theorem witness_MemoryPortTimeoutEndsCycle :
    InFlight (flying .pass 5 live) (flight .pass 5) .pass ∧ LoaderReads (poweringOn .body 40 none)
    ∧ LoaderReads (loading .reload .index (some .hold) 207 none live) :=
  ⟨witness_flying _ _ _, witness_loaderReads _ _ _ _ _ _, witness_loaderReads _ _ _ _ _ _⟩

theorem witness_CycleAbandoned :
    (flight .pass 5).stage ≠ .held ∧ (flying .pass 5 live).bpu.upstream = some (flight .pass 5)
    ∧ (let u : UpCycle := { flight .pass 5 with stage := .held }
       (live.setBpu { live.bpu with upstream := some u }).bpu.upstream = some u ∧ u.stage = .held) := by decide +kernel

/-- One write for each cause; the advance one past N, and in RELOADING any value. -/
theorem witness_SubmitWordRefusals :
    Accepting live ∧ live.tables = some plant ∧ SubmitWord plant live 0x12000
    ∧ ((9 : Word) - live.rt.submit).toNat > plant.map.ringSize.slots - (live.rt.submit - live.rt.reclaim).toNat
    ∧ decodeCycle live (cycleOf 0x12000 true .other 1) = .refuse .indexFault .initiator
    ∧ decodeCycle live (cycleOf 0x12000 true .link 1) = .refuse .indexFault .access
    ∧ decodeCycle live { cycleOf 0x12000 true .host 1 with lanes := 2 } = .refuse .indexFault .width
    ∧ decodeCycle live (cycleOf 0x12000 true .host 9) = .refuse .indexFault .advance
    ∧ (let s := loading .reload .body (some .hold) 40 none (live.setCsu { live.csu with sched := .reloading })
       Accepting s ∧ s.csu.sched = .reloading ∧ SubmitWord plant s 0x12000
        ∧ decodeCycle s (cycleOf 0x12000 true .host 1) = .refuse .indexFault .state) :=
  ⟨witness_accepting.1, rfl, ⟨rfl, Or.inr (by decide +kernel), Or.inr (by decide)⟩, by decide +kernel, by decide +kernel,
    by decide +kernel, by decide +kernel, by decide +kernel, ⟨rfl, rfl, rfl⟩, rfl,
    ⟨rfl, Or.inr (by decide +kernel), Or.inr (by decide)⟩, by decide +kernel⟩

/-- Each window of the map and of the station region (`witness_mapped_addresses`, `witness_other_addresses`); an advance one past release; a submitted slot;
RUN; a status block word that is not writable. -/
theorem witness_RefusedCycleEnds :
    Accepting live ∧ Accepting ready ∧ ready.csu.sched = .run
    ∧ decodeCycle live (cycleOf 0 false .link 0) = .refuse .protectViolation .access
    ∧ decodeCycle live (cycleOf 0x12010 true .host 0) = .refuse .indexFault .access
    ∧ (live.rt.release - live.rt.take).toNat < ((1 : Word) - live.rt.take).toNat
    ∧ (RingWord plant ready 0x11000 0 0 ∧ RingWord plant ready 0x11007 0 7 ∧ (ready.ob.at 0).state ≠ .free)
    ∧ (0xB000 : Word).toNat / 4096 ≠ 12 ∧ 0 ∉ [1, 2, 3, 4, 6, 7, 23, 24, 25] :=
  ⟨witness_accepting.1, witness_accepting.2, rfl, by decide +kernel, by decide +kernel, by decide +kernel,
    ⟨⟨by decide, by decide, by decide, Or.inr (by decide +kernel)⟩,
      ⟨by decide, by decide, by decide, Or.inr (by decide +kernel)⟩, by decide +kernel⟩, by decide, by decide⟩

/-- Take and release both at 0, so every position is stray: the first word and the last of the ring. -/
theorem witness_StrayReadAnswered :
    Accepting live ∧ RingWord plant live 0x11000 0 0 ∧ RingWord plant live 0x1103F 7 7
    ∧ dist live.rt.take live.rt.release ≤ distToSlot plant.map.ringSize live.rt.take 0 :=
  ⟨witness_accepting.1, ⟨by decide, by decide, by decide, Or.inr (by decide +kernel)⟩,
    ⟨by decide, by decide, by decide, Or.inr (by decide +kernel)⟩, by decide +kernel⟩

/-- A master waiting and a load reading, with the port free. -/
def bothWait (last : Requester) : State :=
  (live.setBpu { live.bpu with lastGrant := last, upstream := some { flight .pass 5 with stage := .waiting .pass } }).setIml
    { Iml.idleWith .none with kind := .reload, phase := .body, origin := some .hold, nextFetch := 40 }

/-- RESETN asserted; a busy port; neither waiting, one alone, and both with each last grant; each phase. -/
theorem witness_ArbiterAlternates :
    State.reset.bpu.resetn = true ∧ (flying .pass 5 live).bpu.memPort ≠ none
    ∧ (live.bpu.resetn = false ∧ live.bpu.memPort = none ∧ live.bpu.upstream = none ∧ loaderAddr live = none)
    ∧ (let s := bothWait .loader
       s.bpu.resetn = false ∧ s.bpu.memPort = none ∧ masterWaiting s ≠ none ∧ loaderAddr s = some 40
        ∧ s.bpu.lastGrant = .loader)
    ∧ (bothWait .master).bpu.lastGrant = .master
    ∧ (let s := (bothWait .loader).setIml (Iml.idleWith .none)
       masterWaiting s ≠ none ∧ loaderAddr s = none)
    ∧ (let s := (bothWait .loader).setBpu { live.bpu with upstream := none }
       s.bpu.upstream = none ∧ loaderAddr s ≠ none)
    ∧ [LoadPhase.idle, .header, .body, .index, .complete].all (fun x => (poweringOn x 40 none).iml.phase == x) = true
    ∧ (poweringOn .index 40 none).iml.kind = .powerOn ∧ (poweringOn .index 40 (some 9)).iml.indexSubmit ≠ none
    ∧ (let s := loading .reload .index (some .hold) 207 none live
       s.iml.phase = .index ∧ s.bpu.indexStall = false ∧ s.iml.kind ≠ .powerOn) := by decide +kernel

/-! ### The loader -/

/-- An image with one entry in each table but the bands, of 150 words; word 31 makes it sum to 0. -/
def smallImage (checksum : Word) : List Word :=
  [1, 0x1000, 1, 0x2000, 1, 0x2010, 1, 0x3000, 1, 0, 1, 1, 1, 1, 600, 10, 150] ++ List.replicate 14 0 ++ [checksum]
    ++ [0, 3, 0, 0x1405, 60, 90, 6, 30] ++ [0, 0, 7, 5, 60, 0, 0, 0] ++ [0, 100, 200, 900] ++ [200, 0]
    ++ List.replicate 96 1

def imageWords (l : List Word) (k : Nat) : Nat := (l.getD k 0).toNat

def total (l : List Word) : Word := l.foldl (· + ·) 0

/-- The last read of the image: what precedes it staged and summed. -/
def atEnd (phase : LoadPhase) (l : List Word) : State :=
  let s := poweringOn phase (l.length - 1) none
  s.setIml { s.iml with staging := l.dropLast, sum := total l.dropLast }

/-- Words that end no phase; word 31 of a header that passes, of one with another format, with another length, and over
552; the last word of an image that passes, and of one that fails each check with those before it passed: a sum of 1, a
ring size code of 4, a submit word on the take word, a pump of house 1 of 1. -/
theorem witness_FetchReadStagesWord :
    (∀ phase l, LoaderReads (atEnd phase l))
    ∧ (atEnd .header ((smallImage 0).take 31)).iml.nextFetch < 31
    ∧ (let s := poweringOn .body 40 none
       0 + 1 < 2 ∧ (s.setIml { s.iml with staging := List.replicate 40 42 }).iml.nextFetch + 1 < (42 : Word).toNat)
    ∧ (let l := (smallImage 0).take 32
       (atEnd .header l).iml.nextFetch = 31 ∧ imageWords l 0 = 1 ∧ imageWords l 16 = countedWords (imageWords l)
        ∧ imageWords l 16 ≤ 552 ∧ imageWords (l.set 0 2) 0 ≠ 1
        ∧ imageWords (l.set 16 151) 16 ≠ countedWords (imageWords (l.set 16 151))
        ∧ (let m := (l.set 10 52).set 16 558
           imageWords m 16 = countedWords (imageWords m) ∧ 552 < imageWords m 16))
    ∧ (let l := smallImage (0 - total (smallImage 0))
       let s := atEnd .body l
       s.iml.nextFetch + 1 = (s.iml.staging.getD 16 0).toNat ∧ s.iml.sum + 1 = 0 ∧ s.iml.staging ++ [1] = l
        ∧ s.iml.sum + 2 ≠ 0) := by
  refine ⟨fun _ _ => ⟨portOf .loader, rfl, rfl⟩, by decide +kernel, by decide +kernel, by decide +kernel, by decide +kernel⟩

theorem witness_image_checks :
    (ImageInRange (imageWords (smallImage 0)) ∧ ImagePlaced 0x30000 (imageWords (smallImage 0))
      ∧ ImageAgrees (imageWords (smallImage 0)))
    ∧ ¬ ImageInRange (imageWords ((smallImage 0).set 9 4))
    ∧ (ImageInRange (imageWords ((smallImage 0).set 3 0x2010))
        ∧ ¬ ImagePlaced 0x30000 (imageWords ((smallImage 0).set 3 0x2010)))
    ∧ (ImageInRange (imageWords ((smallImage 0).set 32 1)) ∧ ImagePlaced 0x30000 (imageWords ((smallImage 0).set 32 1))
        ∧ ¬ ImageAgrees (imageWords ((smallImage 0).set 32 1))) := by
  unfold ImageInRange ImagePlaced ImageAgrees
  refine ⟨⟨?_, ?_, ?_⟩, ?_, ⟨?_, ?_⟩, ?_, ?_, ?_⟩ <;> decide +kernel

def unloaded : State := (State.reset.setBpu { Bpu.reset with resetn := false }).setCsu { Csu.reset with sched := .unloaded }

theorem witness_IndexStallAndSubmitRead :
    (let s := (indexing none live).setBpu live.bpu
     s.bpu.resetn = false ∧ s.iml.kind = .reload ∧ s.iml.phase = .index ∧ s.iml.indexSubmit = none
      ∧ s.bpu.indexStall = false ∧ s.bpu.upstream = none ∧ s.bpu.memPort = none)
    ∧ (let s := poweringOn .index 207 none
       LoaderReads s ∧ s.iml.phase = .index ∧ s.iml.indexSubmit = none ∧ s.iml.kind = .powerOn
        ∧ s.bpu.resetn = false ∧ NoMasterWaits s)
    ∧ (let s := indexing none live
       LoaderReads s ∧ s.iml.phase = .index ∧ s.iml.indexSubmit = none ∧ s.bpu.indexStall = true)
    ∧ (let s := indexing (some 9) live
       LoaderReads s ∧ s.iml.phase = .index ∧ s.iml.indexSubmit = some 9 ∧ s.iml.kind = .reload) :=
  ⟨⟨rfl, rfl, rfl, rfl, rfl, rfl, rfl⟩, ⟨witness_loaderReads _ _ _ _ _ _, rfl, rfl, rfl, rfl, nofun⟩,
    ⟨witness_loaderReads _ _ _ _ _ _, rfl, rfl, rfl⟩, witness_loaderReads _ _ _ _ _ _, rfl, rfl, rfl⟩

theorem witness_PowerOnLoadCompletes :
    let s := poweringOn .index 207 (some 9)
    LoaderReads s ∧ s.iml.phase = .index ∧ s.iml.kind = .powerOn ∧ s.iml.indexSubmit = some 9 ∧ s.tables = none :=
  ⟨witness_loaderReads _ _ _ _ _ _, rfl, rfl, rfl, rfl⟩

theorem witness_quiet : Quiet (indexing (some 9) live) ∧ ¬ Quiet (indexing (some 9) (withGroup 0 (.armed 0 0) live)) := by
  rw [← quiet_iff, ← quiet_iff]
  decide +kernel

/-- A reload in COMPLETE, both index words read, within its stall. -/
def completing (s : State) : State :=
  let x := indexing (some 9) s
  (x.setIml { x.iml with phase := .complete, indexTake := some 4 }).setBpu { x.bpu with memPort := none }

/-- Each way to the completion event; not quiet; quiet with pump 0 UNKNOWN, which an empty image drops; quiet with every
pump STOPPED; quiet with no tables in force, as from UNLOADED. -/
theorem witness_ReloadCompletes :
    (∀ s, LoaderReads (indexing (some 9) s) ∧ (indexing (some 9) s).iml.phase = .index
        ∧ (indexing (some 9) s).iml.indexSubmit = some 9 ∧ (indexing (some 9) s).iml.kind = .reload)
    ∧ (∀ s, (completing s).bpu.memPort = none ∧ (completing s).iml.phase = .complete
        ∧ (completing s).iml.indexSubmit = some 9 ∧ (completing s).iml.indexTake = some 4
        ∧ (completing s).iml.kind = .reload)
    ∧ (indexing (some 9) live).tables = some plant ∧ (indexing (some 9) unloaded).tables = none
    ∧ quiet (indexing (some 9) unloaded) = true
    ∧ (configured plant 0 = true ∧ (live.psu.pumps.at 0).state ≠ .stopped
        ∧ configured (parseTables (indexing (some 9) live).iml.staging) 0 = false)
    ∧ (let s := indexing (some 9) (live.setPsu { live.psu with pumps := Tab.all (inState .stopped) })
       ∀ p, (s.psu.pumps.at p).state = .stopped) :=
  ⟨fun _ => ⟨witness_loaderReads _ _ _ _ _ _, rfl, rfl, rfl⟩, fun _ => ⟨rfl, rfl, rfl, rfl, rfl⟩, rfl, rfl,
    by decide +kernel, by decide +kernel, by decide +kernel⟩

/-! ### Commands, sweeps and the status block -/

theorem witness_commandFree : CommandFree live ∧ CommandFree ready := ⟨⟨witness_accepting.1, rfl⟩, witness_accepting.2, rfl⟩

def sweeping (next last : Word) (s : State) : State :=
  s.setCsu { s.csu with sweep := { kind := .cancelTag, key := 5, next, last } }

/-- A reload of the live part with its fetch read in flight, no stall in force. -/
def reloading : State := loading .reload .body (some .hold) 40 none (live.setCsu { live.csu with sched := .reloading })

/-- For checks 2 and 3 of R182: RUN, UNLOADED, and RELOADING with the memory port busy, none of them HOLD; a sweep in
flight in RUN and in HOLD. -/
theorem witness_turnedAway :
    (Accepting ready ∧ ready.csu.sched = .run) ∧ (Accepting unloaded ∧ unloaded.csu.sched = .unloaded)
    ∧ (Accepting reloading ∧ reloading.csu.sched = .reloading ∧ reloading.bpu.memPort ≠ none)
    ∧ (let s := sweeping 0 1 ready
       Accepting s ∧ s.csu.sweep.kind ≠ .none ∧ s.csu.sched = .run)
    ∧ (let s := sweeping 0 1 live
       Accepting s ∧ s.csu.sweep.kind ≠ .none ∧ s.csu.sched = .hold) :=
  ⟨⟨witness_accepting.2, rfl⟩, ⟨⟨rfl, rfl, rfl⟩, rfl⟩, ⟨⟨rfl, rfl, rfl⟩, rfl, by decide⟩,
    ⟨⟨rfl, rfl, rfl⟩, by decide, rfl⟩, ⟨rfl, rfl, rfl⟩, by decide, rfl⟩

/-- HOLD with the clock set and without; the rest is `witness_turnedAway`'s. -/
theorem witness_RunCommand :
    (Accepting live ∧ live.csu.sweep.kind = .none ∧ live.csu.sched = .hold ∧ live.cbu.clockSet = true)
    ∧ (let s := live.setCbu Cbu.reset
       Accepting s ∧ s.csu.sweep.kind = .none ∧ s.csu.sched = .hold ∧ s.cbu.clockSet = false) :=
  ⟨⟨witness_accepting.1, rfl, rfl, rfl⟩, ⟨rfl, rfl, rfl⟩, rfl, rfl, rfl⟩

/-- HOLD, and the least code that names no command but 0; the rest is `witness_turnedAway`'s. -/
theorem witness_HoldAndUnknownCommand :
    (Accepting live ∧ live.csu.sweep.kind = .none ∧ live.csu.sched = .hold) ∧ 8 ≤ (8 : Word).toNat :=
  ⟨⟨witness_accepting.1, rfl, rfl⟩, by decide⟩

/-- HOLD quiet and not, and UNLOADED; the rest is `witness_turnedAway`'s. -/
theorem witness_ReloadCommand :
    (Accepting live ∧ live.csu.sweep.kind = .none ∧ live.bpu.memPort = none ∧ live.csu.sched = .hold
      ∧ quiet live = true)
    ∧ (Accepting unloaded ∧ unloaded.csu.sweep.kind = .none ∧ unloaded.bpu.memPort = none
      ∧ unloaded.csu.sched = .unloaded)
    ∧ (let s := withEntry 0 (entryIn .waiting .start) live
       Accepting s ∧ s.csu.sweep.kind = .none ∧ s.csu.sched = .hold ∧ quiet s = false) :=
  ⟨⟨witness_accepting.1, rfl, rfl, rfl, by decide +kernel⟩, ⟨⟨rfl, rfl, rfl⟩, rfl, rfl, rfl⟩,
    ⟨rfl, rfl, rfl⟩, rfl, rfl, by decide +kernel⟩

/-- Each turned away in its own way: SET_TIME in RUN, CANCEL_TAG in RELOADING, CLEAR_LOCKOUT during a sweep. -/
theorem test_turnedAway_reasons :
    (commandWrite 4 ready).csu.status = { code := 4, outcome := .refused, reason := .badState }
    ∧ (commandWrite 5 reloading).csu.status = { code := 5, outcome := .refused, reason := .badState }
    ∧ (commandWrite 7 (sweeping 0 1 ready)).csu.status = { code := 7, outcome := .refused, reason := .busy } := by
  decide +kernel

def withArguments (a b : Word) (s : State) : State :=
  s.setCsu { s.csu with arguments := (s.csu.arguments.put 0 a).put 1 b }

/-- 23:59:59, the last time of day; the rest is `witness_turnedAway`'s. -/
theorem witness_SetTimeCommand :
    let s := withArguments 0x2359 0xFF59 live
    Accepting s ∧ s.csu.sweep.kind = .none ∧ s.csu.sched = .hold ∧ 23 < 24 ∧ 59 < 60
    ∧ s.csu.arguments.at 0 = BitVec.ofNat 16 ((23 / 10 * 16 + 23 % 10) * 256 + (59 / 10 * 16 + 59 % 10))
    ∧ (s.csu.arguments.at 1).toNat % 256 = 59 / 10 * 16 + 59 % 10 :=
  ⟨⟨rfl, rfl, rfl⟩, rfl, rfl, by decide, by decide, by decide +kernel, by decide +kernel⟩

/-- 23:59:60 names no time of day. -/
theorem witness_SetTimeArgumentsJudged :
    let s := withArguments 0x2359 0x0060 live
    CommandFree s ∧ s.csu.sched = .hold ∧ setTimeArgument (s.csu.arguments.at 0) (s.csu.arguments.at 1) = none :=
  ⟨⟨⟨rfl, rfl, rfl⟩, rfl⟩, rfl, by decide +kernel⟩

/-- An empty range and one of one entry; the last configured house and the first that is not; the rest is `witness_turnedAway`'s. -/
theorem witness_SweepCommands :
    (CommandFree live ∧ live.tables = some plant ∧ live.csu.sched = .hold ∧ live.rt.reclaim = live.rt.submit)
    ∧ (CommandFree ready ∧ ready.tables = some plant ∧ ready.csu.sched = .run ∧ ready.rt.reclaim ≠ ready.rt.submit)
    ∧ ((withArguments 2 0 live).csu.arguments.at 0).toNat < plant.map.houseCount.val
    ∧ plant.map.houseCount.val ≤ ((withArguments 3 0 live).csu.arguments.at 0).toNat :=
  ⟨⟨witness_commandFree.1, rfl, rfl, rfl⟩, ⟨witness_commandFree.2, rfl, rfl, by decide +kernel⟩, by decide +kernel,
    by decide +kernel⟩

/-- A marked WAITING entry at the last index of the range, and a FREE one before another. -/
theorem witness_SweepVisitTaken :
    (let s := sweeping 0 1 (withEntry 0 { entryIn .waiting .start with mark := true } ready)
     s.tables = some plant ∧ s.csu.sweep.kind ≠ .none ∧ s.csu.sweep.next ≠ s.csu.sweep.last
      ∧ (s.ob.at 0).state = .waiting ∧ (s.ob.at 0).mark = true)
    ∧ (let s := sweeping 3 5 live
       s.tables = some plant ∧ s.csu.sweep.kind ≠ .none ∧ s.csu.sweep.next ≠ s.csu.sweep.last
        ∧ (s.ob.at 3).state ≠ .waiting) :=
  ⟨⟨rfl, by decide, by decide, by decide +kernel, by decide +kernel⟩, rfl, by decide, by decide, by decide +kernel⟩

/-- The last configured pump in LOCKOUT; the first that is not configured; a pump that is not in LOCKOUT; the rest is
`witness_turnedAway`'s. -/
theorem witness_ClearLockoutCommand :
    (let s := withArguments 8 0 (withPump 8 { inState .lockout with lock := .fault } live)
     CommandFree s ∧ s.tables = some plant ∧ s.csu.sched = .hold ∧ (s.csu.arguments.at 0).toNat = 8
      ∧ 8 < plant.pumpCount.val ∧ (s.psu.pumps.at 8).state = .lockout)
    ∧ plant.pumpCount.val ≤ ((withArguments 9 0 live).csu.arguments.at 0).toNat
    ∧ ((withArguments 0 0 live).csu.arguments.at 0).toNat = 0 ∧ (live.psu.pumps.at 0).state ≠ .lockout :=
  ⟨⟨⟨⟨rfl, rfl, rfl⟩, rfl⟩, rfl, rfl, by decide +kernel, by decide, by decide +kernel⟩, by decide +kernel,
    by decide +kernel, by decide +kernel⟩

/-- The first and the last word; a pump that is configured and the first that is not; the largest clock and tally. -/
theorem witness_StatusBlockWrites :
    Accepting live ∧ StatusBlockWord live 3584 0 ∧ StatusBlockWord live 3647 63
    ∧ (configured plant 8 = true ∧ waitingCount ready 8 ≤ 2 ∧ (ready.psu.pumps.at 8).allowance ≤ 15)
    ∧ (∀ t, live.tables = some t → configured t 9 = false)
    ∧ (4294943999 < 4294944000 ∧ 16777215 ≤ 16777215) :=
  ⟨witness_accepting.1, ⟨by decide +kernel, by decide⟩, ⟨by decide +kernel, by decide⟩, by decide +kernel,
    fun _ h => by rw [← Option.some.inj h]; decide +kernel, by decide⟩

/-! ### The invariants hold in a state with a load of work -/

theorem witness_ClockSound : ClockSound live ∧ ∃ t, step live = .next t :=
  ⟨⟨by decide, by decide, by decide, by decide, by decide⟩, _, rfl⟩

theorem witness_PumpsSound : PumpsSound ready ∧ ∃ t, step ready = .next t := by
  refine ⟨?_, _, rfl⟩
  intro p
  have h : ready.psu.pumps.at p = if p = 0 then inState .stopped else PumpRec.reset := by
    simp [ready, indexes, withEntry, freshHouse, withLevels, withPump, inRun, live, State.reset, Psu.reset, Tab.at_put]
  rw [h]
  have ht : ready.tables = some plant := rfl
  simp only [ht, configuredIn, Option.any_some, Option.some.injEq, forall_eq']
  by_cases h0 : p = 0
  · subst h0
    unfold RecordSound
    decide +kernel
  · simp [h0, RecordSound, PumpRec.reset]

theorem witness_StoreSound : StoreSound (withStore 2 (.waiting (stopFor 0 0)) (live.setIlu { live.ilu with nextSeq := 1 }))
    ∧ ∃ t, step (withStore 2 (.waiting (stopFor 0 0)) (live.setIlu { live.ilu with nextSeq := 1 })) = .next t := by
  refine ⟨?_, _, rfl⟩
  have h (e : Fin 8) (o : InternalOrder) :
      storeOrder ((withStore 2 (.waiting (stopFor 0 0)) (live.setIlu { live.ilu with nextSeq := 1 })).ilu.store.at e) = some o
        → e = 2 ∧ o = stopFor 0 0 := by
    simp only [withStore, live, State.reset, Ilu.reset, State.setIlu_ilu, Tab.at_put]
    split
    · next he => intro ho; exact ⟨he, (Option.some.inj ho).symm⟩
    · simp [storeOrder]
  refine ⟨?_, ?_⟩
  · intro e f o q he hf _
    rw [(h e o he).1, (h f q hf).1]
  · intro e o he
    rw [(h e o he).2]
    decide +kernel

theorem witness_QueuesSound : QueuesSound ready ∧ ∃ t, step ready = .next t := ⟨by unfold QueuesSound; decide +kernel, _, rfl⟩

/-- A power-on load with its fetch read in flight and a cycle held. -/
def holding : State :=
  let s := poweringOn .header 0 none
  s.setBpu { s.bpu with upstream := some { flight .pass 5 with stage := .held } }

theorem witness_BusSound : BusSound holding ∧ ∃ t, step holding = .next t := by
  refine ⟨?_, _, rfl⟩
  unfold BusSound ResetHeld SchedulerSound StallSound PortSound
  decide +kernel

theorem witness_busSound_live : BusSound live := by
  unfold BusSound ResetHeld SchedulerSound StallSound PortSound
  decide +kernel

/-- Slot 0 RELEASED, seven slots FREE. -/
theorem witness_slotsSound_released : SlotsSound twoReleased :=
  ⟨by decide +kernel, fun d hd => by
    have h : d < 8 := hd
    revert d
    decide +kernel, by decide +kernel, nofun⟩

/-- Two positions in [take, release): a host order and an internal one, each with its group ARMED. -/
theorem witness_ReleaseListSound :
    BusSound twoReleased ∧ SlotsSound twoReleased ∧ ReleaseListSound twoReleased ∧ ∃ t, step twoReleased = .next t := by
  refine ⟨witness_busSound_live, witness_slotsSound_released, ?_, _, rfl⟩
  refine ⟨by decide +kernel, by decide +kernel, by decide +kernel, ?_, ?_, nofun⟩
  · intro a
    cases a with
    | host k => revert k; unfold OriginReleased; decide +kernel
    | internal e =>
      have h : twoReleased.ilu.store.at e = if e = 3 then .released (stopFor 4 0) 100 else .free := by
        revert e; decide +kernel
      have h' : Origin.internal e ∈ twoReleased.rt.list.map (fun x => x.origin) ↔ e = 3 := by
        revert e; decide +kernel
      rw [h', OriginReleased, h]
      by_cases he : e = 3 <;> simp [he]
  · intro d x hx
    match d, hx with
    | 0, hx =>
      obtain rfl := Option.some.inj hx
      exact ⟨0, ⟨by decide +kernel, by decide +kernel, by decide +kernel, orderTo .start, by decide +kernel, rfl⟩,
        by decide +kernel⟩
    | 1, hx =>
      obtain rfl := Option.some.inj hx
      exact ⟨4, ⟨stopFor 4 0, by decide +kernel, rfl⟩, by decide +kernel⟩
    | _ + 2, hx => exact absurd hx nofun

/-- One order WAITING in slot 0, seven slots FREE. -/
theorem witness_SlotsSound :
    let s := indexes 1 0 0 0 [] (withEntry 0 (entryIn .waiting .start) live)
    BusSound s ∧ SlotsSound s ∧ ∃ t, step s = .next t :=
  ⟨witness_busSound_live,
    ⟨by decide +kernel, fun d hd => by
      have h : d < 8 := hd
      revert d
      decide +kernel, by decide +kernel, nofun⟩, _, rfl⟩

end Sys2Proof.Tests
end

/-! PROOFS. Ring views and index words (chapter 1): which window decodes an address, what a cycle ended with a fault
leaves, and the statements on refused submit writes (R6) and stray reads (R17). -/

namespace Sys2Proof.Machine

open Safety

/-! ### The window that decodes an address (R150) -/

theorem offsetIn_outside {base len : Nat} {a : Addr} (h : a.toNat < base ∨ base + len ≤ a.toNat) :
    offsetIn base len a = none := by
  simp only [offsetIn]
  rw [if_neg (by omega)]

/-- Outside the station region the map in force decodes a cycle. -/
theorem decodeCycle_mapped {s : State} {t : Tables} {c : Cycle} (ht : s.tables = some t)
    (ha : OutsideStation s c.addr) : decodeCycle s c = decodeMapped t s c := by
  unfold OutsideStation at ha
  have himage : offsetIn (regionBase s) 3584 c.addr = none := offsetIn_outside (by omega)
  have hstatus : offsetIn (regionBase s + statusOffset) 64 c.addr = none :=
    offsetIn_outside (by simp only [statusOffset]; omega)
  simp only [decodeCycle, himage, hstatus, ht]

theorem decodeCycle_submitWord {s : State} {t : Tables} {c : Cycle} (ht : s.tables = some t)
    (ha : SubmitWord t s c.addr) : decodeCycle s c = decodeSubmit t s c := by
  obtain ⟨haddr, houtside, hring⟩ := ha
  rw [decodeCycle_mapped ht houtside, decodeMapped, offsetIn_outside hring]
  simp only [haddr, if_true]

theorem decodeCycle_ringWord {s : State} {t : Tables} {c : Cycle} {k : Fin 64} {w : Nat} (ht : s.tables = some t)
    (ha : RingWord t s c.addr k w) : decodeCycle s c = decodeRing t s c (8 * k.val + w) := by
  obtain ⟨haddr, hk, hw, houtside⟩ := ha
  have hoff : offsetIn t.map.ringBase.toNat (8 * t.map.ringSize.slots) c.addr = some (8 * k.val + w) :=
    offsetIn_inside (by omega) (by omega)
  rw [decodeCycle_mapped ht houtside, decodeMapped, hoff]

/-! ### A cycle ended with a fault (R156, R157) -/

/-- The capture judges the three fault flags before the fault's own flag is raised (R157). -/
theorem raiseFault_eq {kind : FaultKind} {f : EventFlag} (hf : faultFlag kind = some f) (c : Cycle)
    (cause : FaultCause) (s : State) :
    raiseFault kind c cause s = (s.setBpu { s.bpu with
        capture := captureAfter s { kind, addr := c.addr, init := c.init, cause } }).setCsu
      { s.csu with flags := flagsWith s f } := by
  simp only [raiseFault, hf, captureAfter]
  split <;> rfl

theorem endCycle_raiseFault {s : State} (h : Accepting s) {kind : FaultKind} {f : EventFlag}
    (hf : faultFlag kind = some f) (ending : UpEnding) (c : Cycle) (cause : FaultCause) :
    endCycle ending (raiseFault kind c cause s) = (s.setBpu { s.bpu with
        ending
        capture := captureAfter s { kind, addr := c.addr, init := c.init, cause } }).setCsu
      { s.csu with flags := flagsWith s f } := by
  obtain ⟨_, hidle, _⟩ := h
  rw [raiseFault_eq hf, endCycle, setUpstream, ← hidle]
  rfl

/-- REFUSED_CYCLE of a cycle that the decode refuses. -/
theorem exec_refusedCycle {s : State} (h : Accepting s) {c : Cycle} {kind : FaultKind} {f : EventFlag}
    {cause : FaultCause} (hf : faultFlag kind = some f) (hd : decodeCycle s c = .refuse kind cause) :
    exec (.refusedCycle c) s = .next (refusedState c kind f cause s) := by
  calc exec (.refusedCycle c) s
      = .next (present refusedOutcome c s) := rfl
    _ = .next (endCycle .err (raiseFault kind c cause s)) := by rw [present_accepting h, hd]; rfl
    _ = .next (refusedState c kind f cause s) := by rw [endCycle_raiseFault h hf]; rfl

/-- The cycle that STRAY_READ presents (R17). -/
def linkRead (a : Addr) (lanes : BitVec 2) : Cycle := { addr := a, write := false, lanes, init := .link, data := 0 }

/-- STRAY_READ of a link read that the decode finds stray. -/
theorem exec_strayRead {s : State} (h : Accepting s) {a : Addr} {lanes : BitVec 2}
    (hd : decodeCycle s (linkRead a lanes) = .stray) :
    exec (.strayRead a lanes) s = .next ((s.setBpu { s.bpu with
        ending := .ack (some 0)
        capture := captureAfter s { kind := .indexFault, addr := a, init := .link, cause := .stray } }).setCsu
      { s.csu with flags := flagsWith s .indexFault }) := by
  calc exec (.strayRead a lanes) s
      = .next (present strayOutcome (linkRead a lanes) s) := rfl
    _ = .next (endCycle (.ack (some 0)) (raiseFault .indexFault (linkRead a lanes) .stray s)) := by
      rw [present_accepting h, hd]; rfl
    _ = _ := by rw [endCycle_raiseFault h rfl]; rfl

/-! ### The submit word (R5, R6) -/

theorem decodeSubmit_other (t : Tables) (s : State) {c : Cycle} (hi : c.init = .other) :
    decodeSubmit t s c = .refuse .indexFault .initiator := by
  simp only [decodeSubmit, hi, refuseIndex]

/-- Only the host may write the submit word. -/
theorem decodeSubmit_notHost (t : Tables) (s : State) {c : Cycle} (hw : c.write = true)
    (hi : c.init = .link ∨ c.init = .panel) : decodeSubmit t s c = .refuse .indexFault .access := by
  rcases hi with hi | hi <;> simp [decodeSubmit, hi, hw, refuseIndex]

theorem not_full_iff {c : Cycle} : (!c.full) = true ↔ c.lanes ≠ 3 := by
  simp [Cycle.full]

theorem legalSubmit_eq_true {t : Tables} {s : State} {v : Word} : legalSubmit t s v = true ↔
    (v - s.rt.submit).toNat ≤ t.map.ringSize.slots - (s.rt.submit - s.rt.reclaim).toNat :=
  decide_eq_true_iff

/-- The checks on a host write, in R6's order: width, scheduler state, advance. -/
theorem decodeSubmit_hostWrite (t : Tables) (s : State) {c : Cycle} (hw : c.write = true) (hi : c.init = .host) :
    decodeSubmit t s c =
      if c.lanes ≠ 3 then .refuse .indexFault .width
      else if s.csu.sched = .reloading then .refuse .indexFault .state
      else if legalSubmit t s c.data then .memory (.snoop .submitWord)
      else .refuse .indexFault .advance := by
  simp only [decodeSubmit, hi, hw, refuseIndex, not_full_iff, Bool.not_true, Bool.false_eq_true, if_false]

/-- Settles O36: the decode of the submit word, check by check, and what a refused cycle leaves. -/
theorem submitWordRefusals : Obligations.SubmitWordRefusals := by
  intro c s t hs ht ha refused free legal
  have hrefused {cause : FaultCause} (hd : decodeSubmit t s c = .refuse .indexFault cause) : refused cause :=
    exec_refusedCycle hs rfl ((decodeCycle_submitWord ht ha).trans hd)
  refine ⟨fun hi => ?initiator, fun hw hi => ?access, fun hw hi hl => ?width, fun hw hi hl hr => ?state,
    fun hw hi hl hr hlegal => ?advance⟩
  case initiator => exact hrefused (decodeSubmit_other t s hi)
  case access => exact hrefused (decodeSubmit_notHost t s hw hi)
  case width => exact hrefused (by rw [decodeSubmit_hostWrite t s hw hi, if_pos hl])
  case state => exact hrefused (by rw [decodeSubmit_hostWrite t s hw hi, if_neg (not_not.mpr hl), if_pos hr])
  case advance =>
    have hillegal : ¬ legalSubmit t s c.data = true := fun h => hlegal (legalSubmit_eq_true.mp h)
    exact hrefused (by
      rw [decodeSubmit_hostWrite t s hw hi, if_neg (not_not.mpr hl), if_neg hr, if_neg hillegal])

/-! ### A stray read (R14, R17) -/

theorem positionEntry_stray {t : Tables} {s : State} {k : Fin 64}
    (h : dist s.rt.take s.rt.release ≤ distToSlot t.map.ringSize s.rt.take k) : positionEntry t s k = none := by
  simp only [positionEntry]
  rw [if_neg (Nat.not_lt.mpr h)]

/-- A link read of word w of slot k is decoded by the position that the slot holds (R14). -/
theorem decodeCycle_linkRead {s : State} {t : Tables} {a : Addr} {k : Fin 64} {w : Nat} (ht : s.tables = some t)
    (ha : RingWord t s a k w) (lanes : BitVec 2) : decodeCycle s (linkRead a lanes) = decodeLinkRead t s k w := by
  have hring := decodeCycle_ringWord (c := linkRead a lanes) ht ha
  obtain ⟨_, _, hw, _⟩ := ha
  have hslot : Fin.ofNat 64 ((8 * k.val + w) / 8) = k := by
    rw [show (8 * k.val + w) / 8 = k.val by omega]
    exact Fin.ofNat_val_eq_self k
  have hword : (8 * k.val + w) % 8 = w := by omega
  rw [hring]
  simp only [decodeRing, linkRead, hslot, hword, Bool.false_eq_true, if_false]

theorem decodeLinkRead_stray {t : Tables} {s : State} {k : Fin 64}
    (h : dist s.rt.take s.rt.release ≤ distToSlot t.map.ringSize s.rt.take k) (w : Nat) :
    decodeLinkRead t s k w = .stray := by
  simp only [decodeLinkRead, positionEntry_stray h]

/-- Settles O38: a slot outside [take, release) has no release list entry, so each of its words is decoded stray. -/
theorem strayReadAnswered : Obligations.StrayReadAnswered := by
  intro s t a lanes k w hs ht ha hstray
  exact exec_strayRead hs ((decodeCycle_linkRead ht ha lanes).trans (decodeLinkRead_stray hstray w))

end Sys2Proof.Machine

/-! PROOFS. Order slots and admission (chapter 2): what the fields of a slot word stand for, what admission answers
before and after an order's times, and the statements on time-of-day fields (R30) and the times of short-form orders (R31). -/

namespace Sys2Proof.Machine

/-! ### Sums and offsets of epoch values (R140) -/

theorem epochAdd_epochAdd (x a b : Nat) : epochAdd (epochAdd x a) b = epochAdd x (a + b) := by
  simp only [epochAdd, Nat.mod_add_mod, Nat.add_assoc]

theorem epochAdd_zero {x : Nat} (h : x < Config.epochCycle) : epochAdd x 0 = x := Nat.mod_eq_of_lt h

/-- From now on to a moment of the cycle d seconds ahead, counted round the cycle. -/
theorem distance_epochAdd (now : Nat) {d : Nat} (h : d < Config.epochCycle) :
    ((now + d) % Config.epochCycle + (Config.epochCycle - now % Config.epochCycle)) % Config.epochCycle = d := by
  simp only [Config.epochCycle] at h ⊢
  omega

/-- A moment less than half a cycle ahead of now has its distance as its offset. -/
theorem epochOffset_epochAdd (now : Epoch) {d : Nat} (h : d < Config.epochCycle / 2) :
    epochOffset (epochAdd now d) now = d := by
  have hcycle : d < Config.epochCycle := h.trans (by decide)
  simp only [epochOffset, epochAdd, distance_epochAdd now hcycle, if_pos h]

theorem isBelow_epochAdd (now : Epoch) {d : Nat} (h : d < Config.epochCycle / 2) :
    isBelow (epochAdd now d) now = false := by
  simp only [isBelow, epochOffset_epochAdd now h]
  exact decide_eq_false (by omega)

/-! ### Time-of-day fields (R30) -/

theorem bcdPair_eq_some {tens units n : Nat} :
    bcdPair tens units = some n ↔ (tens ≤ 9 ∧ units ≤ 9) ∧ tens * 10 + units = n := by
  simp only [bcdPair, Option.ite_none_right_eq_some, Option.some.injEq]

theorem timeField_eq_some {w : Word} {n : Nat} : timeField w = some n ↔
    ∃ h m, bcdPair (field w 12 4) (field w 8 4) = some h ∧ bcdPair (field w 4 4) (field w 0 4) = some m ∧
      (h ≤ 23 ∧ m ≤ 59) ∧ h * 3600 + m * 60 = n := by
  unfold timeField
  split
  next h m hh hm => simp [hh, hm]
  next hnone =>
    refine iff_of_false nofun ?_
    rintro ⟨h, m, hh, hm, -⟩
    exact hnone h m hh hm

/-- The digits of hh:mm are decimal, hh at most 23 and mm at most 59. -/
def ValidTime (w : Word) : Prop :=
  (w / 4096).toNat ≤ 9 ∧ (w / 256 % 16).toNat ≤ 9 ∧ (w / 16 % 16).toNat ≤ 9 ∧ (w % 16).toNat ≤ 9 ∧
    (w / 4096).toNat * 10 + (w / 256 % 16).toNat ≤ 23 ∧ (w / 16 % 16).toNat * 10 + (w % 16).toNat ≤ 59

/-- The seconds after midnight that the digits of hh:mm stand for. -/
def secondsOfDay (w : Word) : Nat :=
  ((w / 4096).toNat * 10 + (w / 256 % 16).toNat) * 3600 + ((w / 16 % 16).toNat * 10 + (w % 16).toNat) * 60

theorem timeField_eq_some_iff_valid {w : Word} {n : Nat} :
    timeField w = some n ↔ ValidTime w ∧ secondsOfDay w = n := by
  simp only [timeField_eq_some, bcdPair_eq_some, field_nibble3, field_nibble2, field_nibble1, field_nibble0]
  constructor
  · rintro ⟨h, m, ⟨⟨hht, hhu⟩, rfl⟩, ⟨⟨hmt, hmu⟩, rfl⟩, ⟨hh, hm⟩, hn⟩
    exact ⟨⟨hht, hhu, hmt, hmu, hh, hm⟩, hn⟩
  · rintro ⟨⟨hht, hhu, hmt, hmu, hh, hm⟩, hn⟩
    exact ⟨_, _, ⟨⟨hht, hhu⟩, rfl⟩, ⟨⟨hmt, hmu⟩, rfl⟩, ⟨hh, hm⟩, hn⟩

theorem timeField_eq_none_of_not_valid {w : Word} (h : ¬ ValidTime w) : timeField w = none :=
  Option.eq_none_iff_forall_ne_some.mpr fun _ hn => h (timeField_eq_some_iff_valid.mp hn).1

/-- The latest time of day is 23:59. -/
theorem secondsOfDay_le {w : Word} (h : ValidTime w) : secondsOfDay w ≤ 86340 := by
  obtain ⟨-, -, -, -, hh, hm⟩ := h
  simp only [secondsOfDay]
  omega

/-! ### The fields of slot word 0 (11.2) -/

theorem formOf_short {w0 : Word} (h : w0 / 4096 = 1) : formOf w0 = some .short := by
  rw [formOf, formField, field_nibble3, h]; rfl

theorem formOf_long {w0 : Word} (h : w0 / 4096 = 2) : formOf w0 = some .long := by
  rw [formOf, formField, field_nibble3, h]; rfl

theorem exists_actionOf {w0 : Word} (h : w0 / 256 % 16 = 1 ∨ w0 / 256 % 16 = 2) : ∃ a, actionOf w0 = some a := by
  rcases h with h | h
  · exact ⟨.start, by rw [actionOf, field_nibble2, h]; rfl⟩
  · exact ⟨.stop, by rw [actionOf, field_nibble2, h]; rfl⟩

theorem wordsComplete_of_all {e : Entry} (h : ∀ w, e.words.at w ≠ none) : wordsComplete e = true :=
  List.all_eq_true.mpr fun w _ => Option.isSome_iff_ne_none.mpr (h w)

/-! ### An order's times (R31, R32) -/

theorem longTimes_eq_none {now : Epoch} {w1 w2 w3 : Word} :
    longTimes now w1 w2 w3 = none ↔ timeField w2 = none ∨ timeField w3 = none := by
  unfold longTimes
  split
  next h2 h3 => simp [h2, h3]
  next hnone =>
    refine iff_of_true rfl (Classical.byContradiction fun h => ?_)
    obtain ⟨⟨e, h2⟩, l, h3⟩ := (not_or.mp h).imp Option.ne_none_iff_exists'.mp Option.ne_none_iff_exists'.mp
    exact hnone e l h2 h3

/-- The longest window ends 255 minutes and 7200 seconds after admission, far less than half a cycle. -/
theorem shortTimes_not_below {window : Nat} (h : window ≤ 7200) (now : Epoch) (w1 : Word) :
    isBelow (shortTimes window now w1).2 now = false := by
  have hoffset : offsetField w1 < 256 := Nat.mod_lt _ (by decide)
  simp only [shortTimes, epochAdd_epochAdd]
  exact isBelow_epochAdd now (by simp only [Config.epochCycle]; omega)

/-! ### Admission before and after the times (R35) -/

/-- The checks of R35 before BAD_TIME pass, and find this form and this action. -/
structure ReachesTimes (t : Tables) (s : State) (e : Entry) (form : Form) (action : Action) : Prop where
  clock : s.cbu.clockSet = true
  complete : wordsComplete e = true
  form : formOf (recorded e 0) = some form
  action : actionOf (recorded e 0) = some action
  pump : pumpField (recorded e 0) < t.pumpCount.val

/-- What admission can answer of an order with times: a refusal by one of the last three checks, or the order with these
times. -/
def TimedAnswer (s : State) (form : Form) (times : Epoch × Epoch) (r : Except Reason Order) : Prop :=
  r = .error .badField ∨ (isBelow times.2 s.cbu.now = true ∧ r = .error .tooLate) ∨ r = .error .queueFull ∨
    ∃ o, r = .ok o ∧ o.form = form ∧ (o.earliest, o.latest) = times

section
variable {t : Tables} {s : State} {e : Entry} {form : Form} {action : Action}

/-- An order that fails a check before BAD_TIME is refused by that check. -/
theorem admission_early (h : ∀ form action, ¬ ReachesTimes t s e form action) :
    ∃ r ∈ [Reason.clockNotSet, .incomplete, .badForm, .badAction, .badPump], admission t s e = .error r := by
  rcases hclock : s.cbu.clockSet
  · exact ⟨.clockNotSet, by decide, by simp [admission, hclock]⟩
  rcases hcomplete : wordsComplete e
  · exact ⟨.incomplete, by decide, by simp [admission, hclock, hcomplete]⟩
  rcases hform : formOf (recorded e 0) with _ | form
  · exact ⟨.badForm, by decide, by simp [admission, hclock, hcomplete, hform]⟩
  rcases haction : actionOf (recorded e 0) with _ | action
  · exact ⟨.badAction, by decide, by simp [admission, hclock, hcomplete, hform, haction]⟩
  have hpump : t.pumpCount.val ≤ pumpField (recorded e 0) :=
    Nat.le_of_not_lt fun hlt => h form action ⟨hclock, hcomplete, hform, haction, hlt⟩
  exact ⟨.badPump, by decide, by simp [admission, hclock, hcomplete, hform, haction, hpump]⟩

theorem admission_badTime (h : ReachesTimes t s e form action) (hnone : orderTimes t s.cbu.now form e = none) :
    admission t s e = .error .badTime := by
  obtain ⟨hclock, hcomplete, hform, haction, hpump⟩ := h
  simp [admission, hclock, hcomplete, hform, haction, Nat.not_le.mpr hpump, hnone]

theorem admission_timed (h : ReachesTimes t s e form action) {times : Epoch × Epoch}
    (htimes : orderTimes t s.cbu.now form e = some times) : TimedAnswer s form times (admission t s e) := by
  obtain ⟨hclock, hcomplete, hform, haction, hpump⟩ := h
  simp only [admission, hclock, hcomplete, hform, haction, Nat.not_le.mpr hpump, htimes, Bool.not_true,
    Bool.false_eq_true, if_false]
  split
  next => exact .inl rfl
  next =>
    split
    next hbelow => exact .inr (.inl ⟨hbelow, rfl⟩)
    next =>
      split
      next => exact .inr (.inr (.inl rfl))
      next => exact .inr (.inr (.inr ⟨_, rfl, rfl, rfl⟩))

/-- With the checks before it passed, BAD_TIME refuses exactly the orders without times. -/
theorem admission_badTime_iff (h : ReachesTimes t s e form action) :
    admission t s e = .error .badTime ↔ orderTimes t s.cbu.now form e = none := by
  refine ⟨fun hbad => Option.eq_none_iff_forall_ne_some.mpr fun times htimes => ?_, admission_badTime h⟩
  have htimed := admission_timed h htimes
  simp [hbad, TimedAnswer] at htimed

/-- An answer that none of the checks up to BAD_TIME gives is an answer to an order with times. -/
theorem admission_answer_timed {r : Except Reason Order} (h : admission t s e = r)
    (hlate : ∀ x ∈ [Reason.clockNotSet, .incomplete, .badForm, .badAction, .badPump, .badTime], r ≠ .error x) :
    ∃ form times, formOf (recorded e 0) = some form ∧ orderTimes t s.cbu.now form e = some times ∧
      TimedAnswer s form times r := by
  subst h
  by_cases hreach : ∃ form action, ReachesTimes t s e form action
  case pos =>
    obtain ⟨form, action, hreach⟩ := hreach
    rcases htimes : orderTimes t s.cbu.now form e with _ | times
    · exact absurd (admission_badTime hreach htimes) (hlate .badTime (by decide))
    · exact ⟨form, times, hreach.form, htimes, admission_timed hreach htimes⟩
  case neg =>
    obtain ⟨x, hx, hr⟩ := admission_early fun form action h => hreach ⟨form, action, h⟩
    exact absurd hr (hlate x (List.mem_append_left [Reason.badTime] hx))

/-- An admitted order carries the times of its form. -/
theorem orderTimes_of_admission_ok {o : Order} (h : admission t s e = .ok o) :
    orderTimes t s.cbu.now o.form e = some (o.earliest, o.latest) := by
  obtain ⟨form, times, -, htimes, hanswer⟩ := admission_answer_timed h nofun
  simp only [TimedAnswer, reduceCtorEq, and_false, false_or, Except.ok.injEq] at hanswer
  obtain ⟨_, rfl, rfl, rfl⟩ := hanswer
  exact htimes

/-- An order refused TOO_LATE has its latest start below now. -/
theorem isBelow_of_admission_tooLate (h : admission t s e = .error .tooLate)
    (hform : formOf (recorded e 0) = some form) :
    ∃ times, orderTimes t s.cbu.now form e = some times ∧ isBelow times.2 s.cbu.now = true := by
  obtain ⟨form', times, hform', htimes, hanswer⟩ := admission_answer_timed h (by decide)
  obtain rfl : form' = form := Option.some.inj (hform'.symm.trans hform)
  exact ⟨times, htimes, by simpa [TimedAnswer] using hanswer⟩

end

/-- Settles O22: an admitted short-form order carries shortTimes, whose latest start is at most 22,500 seconds ahead of
now and so never below it. -/
theorem shortFormTimes : Obligations.ShortFormTimes := by
  intro t s e hnow _ hwindow
  refine ⟨fun o hok hshort => ?times, fun hform hlate => ?notLate⟩
  case times =>
    have htimes := orderTimes_of_admission_ok hok
    rw [hshort] at htimes
    obtain ⟨hearliest, hlatest⟩ := Prod.mk.inj (Option.some.inj htimes)
    rw [offsetField, field_byte0] at hearliest hlatest
    refine ⟨hearliest.symm, by rw [← hlatest, ← hearliest]; rfl, fun hzero => ?_⟩
    rw [← hearliest, hzero]
    exact epochAdd_zero hnow
  case notLate =>
    obtain ⟨times, htimes, hbelow⟩ := isBelow_of_admission_tooLate hlate (formOf_short hform)
    obtain rfl := Option.some.inj htimes
    exact Bool.false_ne_true ((shortTimes_not_below hwindow _ _).symm.trans hbelow)

/-- Settles O23: a field is valid digit by digit, and past the checks before it BAD_TIME says that the order has no
times. -/
theorem timeOfDayFields : Obligations.TimeOfDayFields := by
  refine ⟨fun w => ?fields, fun t s e hclock hwords haction hpump => ?orders⟩
  case fields =>
    refine ⟨fun hvalid => timeField_eq_some_iff_valid.mpr ⟨hvalid, rfl⟩, timeField_eq_none_of_not_valid,
      fun n hn => ?_⟩
    obtain ⟨hvalid, rfl⟩ := timeField_eq_some_iff_valid.mp hn
    exact secondsOfDay_le hvalid
  case orders =>
    obtain ⟨action, haction⟩ := exists_actionOf haction
    have hreach {form : Form} (hform : formOf (recorded e 0) = some form) : ReachesTimes t s e form action :=
      ⟨hclock, wordsComplete_of_all hwords, hform, haction, (field_byte0 _).trans_lt hpump⟩
    refine ⟨fun hlong => ?_, fun hshort hbad => ?_⟩
    · exact (admission_badTime_iff (hreach (formOf_long hlong))).trans longTimes_eq_none
    · exact Option.some_ne_none _ ((admission_badTime_iff (hreach (formOf_short hshort))).mp hbad)

end Sys2Proof.Machine

/-! PROOFS. The clock (chapter 7): when the argument words of SET_TIME name a time of day, and the statement on SET_TIME
with arguments that do not (R141). -/

namespace Sys2Proof.Machine

open Safety

/-! ### The arguments of SET_TIME (R141) -/

/-- A field names a time of day exactly when its digits are valid (R30). -/
theorem timeField_isSome_iff_valid {w : Word} : (timeField w).isSome = true ↔ ValidTime w := by
  simp only [Option.isSome_iff_exists, timeField_eq_some_iff_valid, exists_and_left, exists_eq', and_true]

/-- The digits of ss are decimal and ss is at most 59. -/
def ValidSeconds (w : Word) : Prop :=
  (w / 16 % 16).toNat ≤ 9 ∧ (w % 16).toNat ≤ 9 ∧ (w / 16 % 16).toNat * 10 + (w % 16).toNat ≤ 59

theorem secondsField_eq_some {w : Word} {n : Nat} : secondsField w = some n ↔
    bcdPair (field w 4 4) (field w 0 4) = some n ∧ n ≤ 59 := by
  unfold secondsField
  split
  next m hm =>
    simp only [hm, Option.ite_none_right_eq_some, Option.some.injEq]
    constructor
    · rintro ⟨hle, rfl⟩
      exact ⟨rfl, hle⟩
    · rintro ⟨rfl, hle⟩
      exact ⟨hle, rfl⟩
  next hnone => simp [hnone]

theorem secondsField_isSome_iff_valid {w : Word} : (secondsField w).isSome = true ↔ ValidSeconds w := by
  simp only [Option.isSome_iff_exists, secondsField_eq_some, bcdPair_eq_some, field_nibble1, field_nibble0]
  constructor
  · rintro ⟨_, ⟨⟨htens, hunits⟩, rfl⟩, hle⟩
    exact ⟨htens, hunits, hle⟩
  · rintro ⟨htens, hunits, hle⟩
    exact ⟨_, ⟨⟨htens, hunits⟩, rfl⟩, hle⟩

/-- The two words name a time of day exactly when each of their fields is valid. -/
theorem setTimeArgument_isSome_iff {hhmm ss : Word} : (setTimeArgument hhmm ss).isSome = true ↔
    (timeField hhmm).isSome = true ∧ (secondsField ss).isSome = true := by
  unfold setTimeArgument
  cases timeField hhmm <;> cases secondsField ss <;> simp

/-! ### SET_TIME judged in HOLD (R182) -/

/-- In HOLD, with no sweep in flight, the checks on SET_TIME come down to its arguments. -/
theorem commandCheck_setTime_hold {s : State} (hsched : s.csu.sched = .hold) (hsweep : s.csu.sweep.kind = .none) :
    commandCheck s .setTime =
      if (setTimeArgument (s.csu.arguments.at 0) (s.csu.arguments.at 1)).isSome then .none else .badArgument := by
  have haccepted : acceptedIn .setTime s.csu.sched = true := by rw [hsched]; rfl
  have hlong : longInFlight s = false := by simp [longInFlight, hsched, hsweep]
  have hvalid :
      argumentsValid s .setTime = (setTimeArgument (s.csu.arguments.at 0) (s.csu.arguments.at 1)).isSome := rfl
  cases harg : setTimeArgument (s.csu.arguments.at 0) (s.csu.arguments.at 1) <;>
    simp [commandCheck, haccepted, hlong, hvalid, harg]

/-- Settles O48: each argument word is valid digit by digit, and in HOLD the check on the arguments is the one that
turns SET_TIME away. -/
theorem setTimeArgumentsJudged : Obligations.SetTimeArgumentsJudged := by
  refine ⟨fun a b => ⟨?arguments, timeField_isSome_iff_valid⟩, fun s hfree hsched hnone => ?refused⟩
  case arguments =>
    exact setTimeArgument_isSome_iff.trans (and_congr_right' secondsField_isSome_iff_valid)
  case refused =>
    obtain ⟨haccepting, hsweep⟩ := hfree
    have hcheck : commandCheck s .setTime = .badArgument := by
      rw [commandCheck_setTime_hold hsched hsweep, hnone]
      rfl
    calc exec .setTime s
        = .next (commandWrite 4 s) := rfl
      _ = .next (refusedCommand 4 .badArgument s) := by
        rw [commandWrite_refused haccepting (cmd := .setTime) rfl hcheck nofun]

end Sys2Proof.Machine

/-! PROOFS. Scheduler control (chapter 10): the checks that turn a command away before its own (R182), what an accepted
command leaves, and the statement on RUN (R184). -/

namespace Sys2Proof.Machine

open Safety

/-! ### The checks of R182 that every command shares -/

/-- Check 2: the scheduler state does not accept the command. -/
theorem commandCheck_badState {s : State} {cmd : Command} (h : acceptedIn cmd s.csu.sched = false) :
    commandCheck s cmd = .badState := by
  simp [commandCheck, h]

/-- Check 3: a sweep is in flight. -/
theorem commandCheck_busy {s : State} {cmd : Command} (hstate : acceptedIn cmd s.csu.sched = true)
    (hsweep : s.csu.sweep.kind ≠ .none) : commandCheck s cmd = .busy := by
  have hlong : longInFlight s = true := by simp [longInFlight, hsweep]
  simp [commandCheck, hstate, hlong]

/-- A row that writes a command's code is turned away wherever its scheduler states are those of `acceptedIn`. -/
theorem turnedAway_of_commandWrite {s : State} (h : Accepting s) {c : Instr} {code : Word} {cmd : Command}
    {states : Sched → Prop} (hrow : exec c s = .next (commandWrite code s)) (hcode : commandOf code = some cmd)
    (hstates : acceptedIn cmd s.csu.sched = true ↔ states s.csu.sched) : TurnedAway c code states s := by
  refine ⟨fun hnot => ?badState, fun hin hsweep => ?busy⟩
  case badState =>
    have hcheck := commandCheck_badState (Bool.eq_false_iff.mpr (mt hstates.mp hnot))
    rw [hrow, commandWrite_refused h hcode hcheck nofun]
  case busy =>
    have hcheck := commandCheck_busy (hstates.mpr hin) hsweep
    rw [hrow, commandWrite_refused h hcode hcheck nofun]

/-- A command that passes every check of R182 has its effect on the state that holds its code in the command word. -/
theorem commandWrite_accepted {s : State} (h : Accepting s) {code : Word} {cmd : Command}
    (hcode : commandOf code = some cmd) (hcheck : commandCheck s cmd = .none) :
    commandWrite code s = acceptCommand cmd ((acknowledged s).setCsu { s.csu with commandWord := code }) := by
  have htaken : commandCheck ((acknowledged s).setCsu { s.csu with commandWord := code }) cmd = .none := hcheck
  rw [commandWrite_accepting h, endCycle_accepting h]
  simp only [takeCommand, hcode]
  rw [show (acknowledged s).csu = s.csu from rfl, htaken]

/-! ### RUN (R184) -/

/-- In HOLD, with no sweep in flight, the checks on RUN come down to the clock. -/
theorem commandCheck_run_hold {s : State} (hsched : s.csu.sched = .hold) (hsweep : s.csu.sweep.kind = .none) :
    commandCheck s .run = if s.cbu.clockSet then .none else .clockNotSet := by
  have haccepted : acceptedIn .run s.csu.sched = true := by rw [hsched]; rfl
  have hlong : longInFlight s = false := by simp [longInFlight, hsched, hsweep]
  have hvalid : argumentsValid s .run = true := rfl
  cases hclock : s.cbu.clockSet <;> simp [commandCheck, haccepted, hlong, hvalid, hclock]

theorem acceptCommand_run (s : State) :
    acceptCommand .run s = (s.setCsu { s.csu with
      sched := .run
      status := { code := 1, outcome := .done, reason := .none } }).setRa { requests := s.ra.requests + 1 } := rfl

/-! ### The hold reason HELD (R78) -/

/-- Checks 6 to 16 of a START each hold with a reason of their own. -/
theorem judgeStoppedStart_ne_held (t : Tables) (s : State) (o : Order) : judgeStoppedStart t s o ≠ .hold .held := by
  simp [judgeStoppedStart, ite_eq_iff]

theorem judgeStart_ne_held (t : Tables) (s : State) (o : Order) : judgeStart t s o ≠ .hold .held := by
  unfold judgeStart
  cases (s.psu.pumps.at o.pump).state
  case stopped => exact judgeStoppedStart_ne_held t s o
  all_goals nofun

theorem judgeStop_ne_held (t : Tables) (s : State) (o : Order) : judgeStop t s o ≠ .hold .held := by
  unfold judgeStop
  cases hstate : (s.psu.pumps.at o.pump).state
  case running => simp [hstate, ite_eq_iff]
  all_goals simp [hstate]

/-- HELD is the verdict of the scheduler state alone: no later check answers it. -/
theorem judgeHost_eq_held_iff {t : Tables} {s : State} {k : Fin 64} {o : Order} :
    judgeHost t s k o = .hold .held ↔ s.csu.sched ≠ .run := by
  refine ⟨fun hheld hrun => ?_, fun hsched => if_pos hsched⟩
  cases haction : o.action
  case start => simp [judgeHost, hrun, haction, ite_eq_iff, judgeStart_ne_held] at hheld
  case stop => simp [judgeHost, hrun, haction, ite_eq_iff, judgeStop_ne_held] at hheld

/-- Settles O44: the clock decides RUN in HOLD, checks 2 and 3 of R182 turn it away elsewhere, and only the scheduler
state holds an order HELD. -/
theorem runCommand : Obligations.RunCommand := by
  refine ⟨fun s h => ⟨fun hsweep hsched hclock => ?accepted, fun hsweep hsched hclock => ?clockNotSet, ?turnedAway⟩,
    fun t s k o hrun hheld => judgeHost_eq_held_iff.mp hheld hrun⟩
  case accepted =>
    have hcheck : commandCheck s .run = .none := by rw [commandCheck_run_hold hsched hsweep, if_pos hclock]
    calc exec .run s
        = .next (commandWrite 1 s) := rfl
      _ = .next (acceptCommand .run ((acknowledged s).setCsu { s.csu with commandWord := 1 })) := by
        rw [commandWrite_accepted h (cmd := .run) rfl hcheck]
      _ = _ := by rw [acceptCommand_run]; rfl
  case clockNotSet =>
    have hcheck : commandCheck s .run = .clockNotSet := by
      rw [commandCheck_run_hold hsched hsweep, hclock]
      rfl
    calc exec .run s
        = .next (commandWrite 1 s) := rfl
      _ = .next (refusedCommand 1 .clockNotSet s) := by
        rw [commandWrite_refused h (cmd := .run) rfl hcheck nofun]
  case turnedAway =>
    exact turnedAway_of_commandWrite h (cmd := .run) rfl rfl beq_iff_eq

end Sys2Proof.Machine

/-! PROOFS. What one step is made of: the moves of the owners of the state, and the step as a chain of them. An invariant
that every move keeps is kept by every step (10.1, log 3). -/

namespace Sys2Proof.Machine

open Safety

/-! ### What the expiries leave as it was -/

@[simp] theorem takeConfirmExpiry_keeps (p : Fin 32) (s : State) :
    (takeConfirmExpiry p s).bpu = s.bpu ∧ (takeConfirmExpiry p s).tables = s.tables ∧
    (takeConfirmExpiry p s).rt = s.rt ∧ (takeConfirmExpiry p s).ob = s.ob ∧ (takeConfirmExpiry p s).rsu = s.rsu ∧
    (takeConfirmExpiry p s).cbu = s.cbu ∧ (takeConfirmExpiry p s).iml = s.iml ∧
    (takeConfirmExpiry p s).pending = s.pending := by
  simp only [takeConfirmExpiry]; split <;> simp

@[simp] theorem takeRunEnd_keeps (p : Fin 32) (s : State) :
    (takeRunEnd p s).bpu = s.bpu ∧ (takeRunEnd p s).tables = s.tables ∧ (takeRunEnd p s).rt = s.rt ∧
    (takeRunEnd p s).ob = s.ob ∧ (takeRunEnd p s).rsu = s.rsu ∧ (takeRunEnd p s).cbu = s.cbu ∧
    (takeRunEnd p s).iml = s.iml ∧ (takeRunEnd p s).pending = s.pending := by
  simp only [takeRunEnd]; split <;> simp

@[simp] theorem takeGuardExpiry_keeps (g : Fin 8) (s : State) :
    (takeGuardExpiry g s).bpu = s.bpu ∧ (takeGuardExpiry g s).tables = s.tables ∧ (takeGuardExpiry g s).rt = s.rt ∧
    (takeGuardExpiry g s).ob = s.ob ∧ (takeGuardExpiry g s).rsu = s.rsu ∧ (takeGuardExpiry g s).ilu = s.ilu ∧
    (takeGuardExpiry g s).cbu = s.cbu ∧ (takeGuardExpiry g s).iml = s.iml ∧ (takeGuardExpiry g s).csu = s.csu ∧
    (takeGuardExpiry g s).pending = s.pending := by
  simp only [takeGuardExpiry]; split <;> simp

/-! ### The moves -/

/-- The blocks that the invariants of the owners read stand: tables, indexes, orders, pumps, internal store, clock. -/
structure SameOwners (s s' : State) : Prop where
  tables : s'.tables = s.tables
  rt : s'.rt = s.rt
  ob : s'.ob = s.ob
  psu : s'.psu = s.psu
  ilu : s'.ilu = s.ilu
  cbu : s'.cbu = s.cbu

/-- No snooped write to an index word is on the bus but one that was there before. -/
def NoNewSnoop (s s' : State) : Prop := ∀ x v, snoopedValue x s' = some v → snoopedValue x s = some v

/-- The parts of a step, each the work of one owner. `B` is what is known of the state in which the step begins. -/
inductive Move (B : Prop) : State → State → Prop
  | inert {s s' : State} (hsame : SameOwners s s') (hsnoop : NoNewSnoop s s') : Move B s s'
  | reset (s : State) (q : List Instr) : Move B s (State.reset.setPending q)
  | decoded (s : State) (c : Cycle) (o : MemOutcome) (hdecode : decodeCycle s c = .memory o) :
      Move B s (setUpstream (some { cycle := c, stage := .waiting o, abandoned := false }) .idle s)
  | snooped (s : State) (u : UpCycle) (x : SnoopTarget) (e : UpEnding) (t : Tables)
      (hflight : masterInFlight s = some (u, .snoop x)) (ht : s.tables = some t) :
      Move B s (snoopTaken t x u.cycle.data (endMaster u e s))
  | cancelled (s : State) (k : Fin 64) (t : Tables) (ht : s.tables = some t) : Move B s (cancelSlot t k s)
  | clockSet (s : State) (tod : Nat) (htod : tod < 86400) : Move B s (setClock tod s)
  | sweepStarted (s : State) (t : Tables) (kind : SweepKind) (ht : s.tables = some t) : Move B s (startSweep t kind s)
  | lockoutCleared (s : State) (t : Tables) (ht : s.tables = some t) (hvalid : argumentsValid s .clearLockout = true) :
      Move B s (acceptClearLockout t s)
  | swapped (s : State) (new : Tables) (a b : Word) (hidle : B → ∀ x, snoopedValue x s = none) :
      Move B s (swapTables new a b s)
  | capJudged (s : State) : Move B s (judgeCapAfresh s)
  | boundary (s : State) (hset : s.cbu.clockSet = true) : Move B s (secondBoundary s)
  | edge (s : State) (hset : s.cbu.clockSet = true) (hlt : s.cbu.divider + 1 < Config.trefPerSecond) :
      Move B s (s.setCbu { s.cbu with divider := s.cbu.divider + 1 })
  | confirmTaken (s : State) (p : Fin 32) : Move B s (takeConfirmExpiry p s)
  | runEndTaken (s : State) (p : Fin 32) : Move B s (takeRunEnd p s)
  | guardTaken (s : State) (g : Fin 8) : Move B s (takeGuardExpiry g s)
  | passTaken (s : State) (t : Tables) (ht : s.tables = some t) : Move B s (releasePass t s)
  | visited (s : State) (t : Tables) (ht : s.tables = some t) : Move B s (sweepVisit t s)

/-- One move after another. -/
def Moves (B : Prop) : State → State → Prop := Relation.ReflTransGen (Move B)

section
variable {B : Prop} {s s' s'' : State}

theorem Moves.refl : Moves B s s := Relation.ReflTransGen.refl

theorem Moves.single (h : Move B s s') : Moves B s s' := Relation.ReflTransGen.single h

theorem Moves.trans (h : Moves B s s') (h' : Moves B s' s'') : Moves B s s'' := Relation.ReflTransGen.trans h h'

theorem Moves.head (h : Move B s s') (h' : Moves B s' s'') : Moves B s s'' := Relation.ReflTransGen.head h h'

/-- The chain that ends in s'', preceded by one that ends where it begins. -/
theorem Moves.after (h' : Moves B s' s'') (h : Moves B s s') : Moves B s s'' := h.trans h'

/-- What every move keeps, a chain of moves keeps. -/
theorem Moves.keeps {P : State → Prop} (hmove : ∀ s s', Move B s s' → P s → P s') (h : Moves B s s') (hs : P s) : P s' := by
  induction h with
  | refl => exact hs
  | tail _ hm ih => exact hmove _ _ hm ih

theorem Moves.of_inert (hsame : SameOwners s s') (hsnoop : NoNewSnoop s s') : Moves B s s' := .single (.inert hsame hsnoop)

/-- A change of none but the Command and Status Unit, the loader, the arbiter's count, the reports or the queue. -/
theorem Moves.of_bpu_eq (hsame : SameOwners s s') (hbpu : s'.bpu = s.bpu) : Moves B s s' :=
  .of_inert hsame fun x v h => by simpa only [snoopedValue, hbpu] using h

/-- A change that leaves no cycle in progress upstream. -/
theorem Moves.of_upstream_none (hsame : SameOwners s s') (hnone : s'.bpu.upstream = none) : Moves B s s' :=
  .of_inert hsame fun x v h => by simp [snoopedValue, hnone] at h

end

/-! ### The bus -/

/-- What the arbiter makes of the cycle in progress: a waiting one may come to be in flight, and no more. -/
theorem snoopedValue_grant (x : SnoopTarget) (s : State) : snoopedValue x (grant s) = snoopedValue x s := by
  have hmaster (c : Cycle) (o : MemOutcome) (ab : Bool) (h : masterWaiting s = some (c, o, ab)) :
      snoopedValue x (grantMaster c o ab s) = snoopedValue x s := by
    unfold masterWaiting at h
    split at h
    next u hu =>
      split at h
      next o' ho => cases h; simp [snoopedValue, grantMaster, hu, ho]
      all_goals cases h
    next => cases h
  simp only [grant]
  repeat' split
  all_goals first | rfl | exact hmaster _ _ _ ‹_›

theorem sameOwners_grant (s : State) : SameOwners s (grant s) := ⟨by simp, by simp, by simp, by simp, by simp, by simp⟩

theorem moves_grant (B : Prop) (s : State) : Moves B s (grant s) :=
  .of_inert (sameOwners_grant s) fun x v h => by rwa [snoopedValue_grant] at h

theorem moves_endCycle (B : Prop) (e : UpEnding) (s : State) : Moves B s (endCycle e s) :=
  .of_upstream_none ⟨by simp, by simp, by simp, by simp, by simp, by simp⟩ rfl

theorem raiseFault_upstream (kind : FaultKind) (c : Cycle) (cause : FaultCause) (s : State) :
    (raiseFault kind c cause s).bpu.upstream = s.bpu.upstream := by
  simp only [raiseFault]
  repeat' split
  all_goals simp

/-- A cycle ended with a fault. -/
theorem moves_endCycle_raiseFault (B : Prop) (e : UpEnding) (kind : FaultKind) (c : Cycle) (cause : FaultCause) (s : State) :
    Moves B s (endCycle e (raiseFault kind c cause s)) :=
  .of_upstream_none ⟨by simp, by simp, by simp, by simp, by simp, by simp⟩ rfl

/-! ### Commands and absorbed writes -/

/-- The time of day that SET_TIME's arguments carry is one. -/
theorem setTimeArgument_lt {a b : Word} {tod : Nat} (h : setTimeArgument a b = some tod) : tod < 86400 := by
  unfold setTimeArgument at h
  split at h
  next m n hm hn =>
    obtain ⟨hvalid, rfl⟩ := timeField_eq_some_iff_valid.mp hm
    have hminutes := secondsOfDay_le hvalid
    have hseconds := (secondsField_eq_some.mp hn).2
    cases h
    omega
  next => cases h

theorem moves_beginLoad (B : Prop) (kind : LoadKind) (origin : Option LoadOrigin) (s : State) :
    Moves B s (beginLoad kind origin s) :=
  (moves_grant B _).after (.of_bpu_eq ⟨rfl, rfl, rfl, rfl, rfl, rfl⟩ rfl)

/-- An accepted command, where its arguments are valid. -/
theorem moves_acceptCommand (B : Prop) (cmd : Command) (s : State) (hvalid : argumentsValid s cmd = true) :
    Moves B s (acceptCommand cmd s) := by
  cases cmd with
  | run => exact .of_bpu_eq ⟨rfl, rfl, rfl, rfl, rfl, rfl⟩ rfl
  | hold => exact .of_bpu_eq ⟨rfl, rfl, rfl, rfl, rfl, rfl⟩ rfl
  | reload =>
    simp only [acceptCommand, acceptReload]
    exact (moves_beginLoad B _ _ _).after (.of_bpu_eq ⟨rfl, rfl, rfl, rfl, rfl, rfl⟩ rfl)
  | setTime =>
    simp only [acceptCommand]
    split
    next tod htod =>
      exact (Moves.single (.clockSet _ tod (setTimeArgument_lt htod))).after (.of_bpu_eq ⟨rfl, rfl, rfl, rfl, rfl, rfl⟩ rfl)
    next => exact .refl
  | cancelTag =>
    simp only [acceptCommand]
    split
    next t ht => exact .single (.sweepStarted s t _ ht)
    next => exact .refl
  | withdrawHouse =>
    simp only [acceptCommand]
    split
    next t ht => exact .single (.sweepStarted s t _ ht)
    next => exact .refl
  | clearLockout =>
    simp only [acceptCommand]
    split
    next t ht => exact .single (.lockoutCleared s t ht hvalid)
    next => exact .refl

/-- A command that the checks of R182 pass has valid arguments. -/
theorem argumentsValid_of_commandCheck {s : State} {cmd : Command} (h : commandCheck s cmd = .none) :
    argumentsValid s cmd = true := by
  cases hvalid : argumentsValid s cmd with
  | true => rfl
  | false => simp [commandCheck, hvalid, ite_eq_iff] at h

theorem moves_takeCommand (B : Prop) (code : Word) (s : State) : Moves B s (takeCommand code s) := by
  have hword : Moves B s (s.setCsu { s.csu with commandWord := code }) := .of_bpu_eq ⟨rfl, rfl, rfl, rfl, rfl, rfl⟩ rfl
  have hrefused (r : CommandReason) :
      Moves B s (setStatus code .refused r (s.setCsu { s.csu with commandWord := code })) :=
    .of_bpu_eq ⟨rfl, rfl, rfl, rfl, rfl, rfl⟩ rfl
  simp only [takeCommand]
  split
  next => exact hrefused _
  next cmd _ =>
    split
    next hcheck => exact hword.trans (moves_acceptCommand B cmd _ (argumentsValid_of_commandCheck hcheck))
    all_goals exact hrefused _

theorem moves_statusWrite (B : Prop) (w : Fin 64) (v : Word) (s : State) : Moves B s (statusWrite w v s) := by
  unfold statusWrite
  split
  case h_1 => exact moves_takeCommand B v s
  all_goals exact .of_bpu_eq ⟨rfl, rfl, rfl, rfl, rfl, rfl⟩ rfl

theorem moves_absorbEffect (B : Prop) (a : AbsorbTarget) (v : Word) (s : State) : Moves B s (absorbEffect a v s) := by
  cases a with
  | status w => exact moves_statusWrite B w v s
  | cancel k =>
    simp only [absorbEffect]
    split
    next t ht => exact .single (.cancelled s k t ht)
    next => exact .refl

/-! ### Cycles -/

theorem moves_carryOut (B : Prop) (c : Cycle) (s : State) : Moves B s (carryOut c (decodeCycle s c) s) := by
  cases hd : decodeCycle s c with
  | memory o => exact .head (.decoded s c o hd) (moves_grant B _)
  | answer v => exact moves_endCycle B _ s
  | stray => exact moves_endCycle_raiseFault B _ _ _ _ s
  | absorb a => exact (moves_endCycle B _ s).trans (moves_absorbEffect B a c.data _)
  | refuse kind cause => exact moves_endCycle_raiseFault B _ _ _ _ s

theorem moves_present (B : Prop) (row : Decoded → Bool) (c : Cycle) (s : State) : Moves B s (present row c s) := by
  simp only [present]
  split
  next => exact .refl
  next =>
    split
    next => exact .of_inert ⟨rfl, rfl, rfl, rfl, rfl, rfl⟩ fun x v h => by simp [snoopedValue] at h
    next =>
      split
      next => exact moves_carryOut B c s
      next => exact .refl

/-- The decode reads nothing of the cycle in progress upstream. -/
theorem decodeCycle_setUpstream (u : Option UpCycle) (e : UpEnding) (s : State) (c : Cycle) :
    decodeCycle (setUpstream u e s) c = decodeCycle s c := rfl

theorem moves_endStall (B : Prop) (s : State) : Moves B s (endStall s) := by
  simp only [endStall]
  split
  next => exact .refl
  next u hu =>
    split
    next =>
      have hcarried := moves_carryOut B u.cycle (setUpstream none s.bpu.ending s)
      rw [decodeCycle_setUpstream] at hcarried
      exact hcarried.after (.of_upstream_none ⟨rfl, rfl, rfl, rfl, rfl, rfl⟩ rfl)
    all_goals exact .refl

theorem moves_abandonCycle (B : Prop) (s : State) : Moves B s (abandonCycle s) := by
  simp only [abandonCycle]
  split
  next => exact .refl
  next u hu =>
    split
    next => exact .of_upstream_none ⟨rfl, rfl, rfl, rfl, rfl, rfl⟩ rfl
    all_goals
      exact .of_inert ⟨rfl, rfl, rfl, rfl, rfl, rfl⟩ fun x v h => by simpa [snoopedValue, hu] using h

/-! ### Acknowledges and timeouts -/

theorem sameOwners_endMaster (u : UpCycle) (e : UpEnding) (s : State) : SameOwners s (endMaster u e s) :=
  ⟨rfl, rfl, rfl, rfl, rfl, rfl⟩

theorem moves_endMaster (B : Prop) (u : UpCycle) (e : UpEnding) (s : State) : Moves B s (endMaster u e s) :=
  .of_upstream_none (sameOwners_endMaster u e s) rfl

theorem moves_masterAcknowledged (B : Prop) {u : UpCycle} {o : MemOutcome} {s : State} (data : Word)
    (h : masterInFlight s = some (u, o)) : Moves B s (masterAcknowledged u o data s) := by
  simp only [masterAcknowledged]
  refine .trans ?_ (moves_grant B _)
  cases o with
  | pass => exact moves_endMaster B _ _ _
  | redirect a => exact moves_endMaster B _ _ _
  | snoop x =>
    simp only [acknowledgedEffect]
    split
    next t ht => exact .single (.snooped s u x _ t h ht)
    next => exact moves_endMaster B _ _ _

theorem moves_acknowledgeSnoop (B : Prop) (row : SnoopTarget → Bool) (s : State) :
    Moves B s (acknowledgeSnoop row s) := by
  simp only [acknowledgeSnoop]
  split
  next => exact .refl
  next u o h =>
    split
    next x =>
      split
      next => exact moves_masterAcknowledged B 0 h
      next => exact .refl
    all_goals exact .refl

/-! ### The loader -/

theorem moves_freePort (B : Prop) (s : State) : Moves B s (freePort s) :=
  .of_inert ⟨rfl, rfl, rfl, rfl, rfl, rfl⟩ fun _ _ h => h

theorem moves_failLoad (B : Prop) (r : ImageReason) (s : State) : Moves B s (failLoad r s) := by
  simp only [failLoad]
  refine .trans ?_ ((moves_endStall B _).trans (moves_grant B _))
  exact .of_inert ⟨by simp, by simp, by simp, by simp, by simp, by simp⟩ fun x v h => by
    simpa [snoopedValue, endLoad] using h

theorem moves_continueLoad (B : Prop) (phase : LoadPhase) (next : Nat) (data : Word) (s : State) :
    Moves B s (continueLoad phase next data s) :=
  (moves_grant B _).after (.of_bpu_eq ⟨rfl, rfl, rfl, rfl, rfl, rfl⟩ rfl)

theorem moves_imageWordRead (B : Prop) (data : Word) (s : State) : Moves B s (imageWordRead data s) := by
  have hheader : Moves B s (headerRead data s) := by
    simp only [headerRead]
    split
    next => exact moves_continueLoad B _ _ _ s
    next => exact moves_failLoad B _ s
  have hbody : Moves B s (bodyRead data s) := by
    simp only [bodyRead]
    split
    next => exact moves_continueLoad B _ _ _ s
    next => exact moves_failLoad B _ s
  simp only [imageWordRead]
  split
  next => split <;> first | exact moves_continueLoad B _ _ _ s | exact hheader
  next => split <;> first | exact moves_continueLoad B _ _ _ s | exact hbody
  all_goals exact .refl

/-- The end of a load that succeeded: the stall over, the held cycle decoded, the port granted. -/
theorem moves_succeed (B : Prop) (s : State) : Moves B s (succeed s) :=
  .of_inert ⟨rfl, rfl, rfl, rfl, rfl, rfl⟩ fun _ _ h => h

section
variable {B : Prop} {s : State} (hidle : B → ∀ x, snoopedValue x s = none)
include hidle

theorem moves_completePowerOn (new : Tables) (a b : Word) : Moves B s (completePowerOn new a b s) :=
  .head (.swapped s new a b hidle) ((moves_succeed B _).trans ((moves_endStall B _).trans (moves_grant B _)))

theorem moves_finishReload (new : Tables) (a b : Word) : Moves B s (finishReload new a b s) := by
  simp only [finishReload]
  refine .head (.swapped s new a b hidle) (.head (.capJudged _) ((moves_succeed B _).trans ?_))
  refine .trans ?_ ((moves_endStall B _).trans (moves_grant B _))
  exact .of_bpu_eq ⟨rfl, rfl, rfl, rfl, rfl, rfl⟩ rfl

theorem moves_completeLoad (a b : Word) : Moves B s (completeLoad a b s) := by
  unfold completeLoad
  split
  next => exact moves_completePowerOn hidle _ a b
  next =>
    simp only [completeReload]
    split
    next => exact moves_failLoad B _ s
    next =>
      split
      next => exact moves_failLoad B _ s
      next => exact moves_finishReload hidle _ a b
  next => exact .refl

theorem moves_takeCompletion : Moves B s (takeCompletion s) := by
  unfold takeCompletion
  split
  next => exact moves_completeLoad hidle _ _
  all_goals exact .refl

end

/-- The acknowledge of the loader's read; of a second index read it may complete the load. -/
theorem moves_loaderAcknowledged {B : Prop} {s : State} (data : Word) (atOnce : Bool)
    (hidle : s.iml.phase = .index → B → ∀ x, snoopedValue x s = none) :
    Moves B s (loaderAcknowledged data atOnce s) := by
  have himage := (moves_freePort B s).trans (moves_imageWordRead B data (freePort s))
  have hindex (hphase : s.iml.phase = .index) : Moves B s (indexWordRead data atOnce (freePort s)) := by
    refine (moves_freePort B s).trans ?_
    simp only [indexWordRead]
    split
    next => exact (moves_grant B _).after (.of_bpu_eq ⟨rfl, rfl, rfl, rfl, rfl, rfl⟩ rfl)
    next =>
      simp only [takeWordRead]
      split
      next =>
        refine (moves_takeCompletion ?_).after (.of_bpu_eq ⟨rfl, rfl, rfl, rfl, rfl, rfl⟩ rfl)
        exact fun hb x => hidle hphase hb x
      next => exact .of_bpu_eq ⟨rfl, rfl, rfl, rfl, rfl, rfl⟩ rfl
  simp only [loaderAcknowledged]
  split
  next h => exact hindex h
  next => exact himage
  next => exact himage
  all_goals exact moves_freePort B s

/-! ### A stall keeps snooped writes off the bus (R159, R160) -/

theorem snoopedValue_eq_none_of_stalled {s : State} (h : StallSound s) (hstalled : stalled s = true) (x : SnoopTarget) :
    snoopedValue x s = none := by
  rcases h.1 hstalled with hnone | hheld
  · simp [snoopedValue, hnone]
  · unfold snoopedValue
    split
    next u hu =>
      simp only [upstreamAt, hu, Option.any_some] at hheld
      split
      next o ho => simp [ho, isHeld] at hheld
      next o ho => simp [ho, isHeld] at hheld
      next => rfl
    next => rfl

/-- Index words are read within a stall (R4, R160). -/
theorem stalled_of_indexRead {s : State} (h : BusSound s) (hflight : loaderInFlight s = true)
    (hphase : s.iml.phase = .index) : stalled s = true := by
  obtain ⟨-, ⟨hloading, -⟩, -, -, hloader, -⟩ := h
  have haddr := hloader hflight
  simp only [loaderAddr, hphase] at haddr
  have hallowed : indexReadsAllowed s = true := by
    cases ha : indexReadsAllowed s with
    | true => rfl
    | false => simp [ha] at haddr
  simp only [indexReadsAllowed, Bool.or_eq_true, beq_iff_eq] at hallowed
  rcases hallowed with hstall | hkind
  · simp [stalled, hstall]
  · simp [stalled, hloading.mpr (.inr hkind)]

/-- In COMPLETE the index stall is in force (R176). -/
theorem stalled_of_complete {s : State} (h : BusSound s) (hphase : s.iml.phase = .complete) : stalled s = true := by
  obtain ⟨-, ⟨-, -, -, hcomplete, -⟩, -⟩ := h
  obtain ⟨-, hstall, -⟩ := hcomplete hphase
  simp [stalled, hstall]

/-! ### Every command is a chain of moves -/

theorem moves_memoryAcknowledged (data : Word) (s : State) : Moves (BusSound s) s (memoryAcknowledged data s) := by
  simp only [memoryAcknowledged]
  split
  next u o h => exact moves_masterAcknowledged _ data h
  next =>
    split
    next hflight =>
      refine moves_loaderAcknowledged data false fun hphase hbus x => ?_
      exact snoopedValue_eq_none_of_stalled hbus.2.2.1 (stalled_of_indexRead hbus hflight hphase) x
    next => exact .refl

theorem moves_memoryTimedOut (B : Prop) (s : State) : Moves B s (memoryTimedOut s) := by
  simp only [memoryTimedOut]
  split
  next u o h =>
    refine (moves_grant B _).after ((moves_endMaster B u .err s).trans ?_)
    exact .of_inert ⟨by simp, by simp, by simp, by simp, by simp, by simp⟩ fun x v h => by
      simpa [snoopedValue, raiseFault_upstream] using h
  next =>
    split
    next => exact (moves_failLoad B _ _).after (moves_freePort B s)
    next => exact .refl

theorem moves_execFetchRead (B : Prop) (data : Word) (s : State) :
    Moves B s (if loaderInFlight s && fetchPhase s then loaderAcknowledged data true s else s) := by
  split
  next h =>
    refine moves_loaderAcknowledged data true fun hphase => ?_
    simp [fetchPhase, hphase] at h
  next => exact .refl

theorem moves_execIndexRead (data : Word) (s : State) :
    Moves (BusSound s) s (if loaderInFlight s && s.iml.phase == .index then loaderAcknowledged data true s else s) := by
  split
  next h =>
    simp only [Bool.and_eq_true] at h
    refine moves_loaderAcknowledged data true fun hphase hbus x => ?_
    exact snoopedValue_eq_none_of_stalled hbus.2.2.1 (stalled_of_indexRead hbus h.1 hphase) x
  next => exact .refl

theorem moves_serveIndexStall (s : State) : Moves (BusSound s) s (serveIndexStall s) := by
  simp only [serveIndexStall]
  split
  next h =>
    exact moves_takeCompletion fun hbus x =>
      snoopedValue_eq_none_of_stalled hbus.2.2.1 (stalled_of_complete hbus h) x
  next =>
    split
    next => exact (moves_grant _ _).after (.of_inert ⟨rfl, rfl, rfl, rfl, rfl, rfl⟩ fun _ _ h => h)
    next => exact .refl

theorem moves_resetReleased (B : Prop) (v : BitVec 4) (s : State) : Moves B s (resetReleased v s) := by
  simp only [resetReleased]
  split
  next => exact (moves_beginLoad B _ _ _).after (.of_inert ⟨rfl, rfl, rfl, rfl, rfl, rfl⟩ fun _ _ h => h)
  next => exact .refl

theorem moves_takeStaleExpiry (B : Prop) (h : Fin 12) (s : State) : Moves B s (takeStaleExpiry h s) := by
  simp only [takeStaleExpiry]
  split
  next => exact .of_bpu_eq ⟨rfl, rfl, rfl, rfl, rfl, rfl⟩ rfl
  next => exact .refl

theorem moves_takePass (B : Prop) (s : State) : Moves B s (takePass s) := by
  simp only [takePass]
  split
  next => exact .refl
  next n _ =>
    have hcount : Moves B s (s.setRa { s.ra with requests := n }) := .of_bpu_eq ⟨rfl, rfl, rfl, rfl, rfl, rfl⟩ rfl
    split
    next t ht => exact hcount.trans (.single (.passTaken _ t ht))
    next => exact hcount

theorem moves_takeVisit (B : Prop) (s : State) : Moves B s (takeVisit s) := by
  simp only [takeVisit]
  split
  next t ht =>
    split
    next => exact .single (.visited s t ht)
    next => exact .refl
  next => exact .refl

theorem moves_exec {c : Instr} {s s' : State} (h : exec c s = .next s') : Moves (BusSound s) s s' := by
  cases c
  case resetnAssert => cases h; exact .single (.reset s _)
  case resetnRelease v => cases h; exact moves_resetReleased _ v s
  case secondBoundary =>
    cases h
    split
    next hset => exact .single (.boundary s hset)
    next => exact .refl
  case confirmExpiry p => cases h; exact .single (.confirmTaken s p)
  case runEnd p => cases h; exact .single (.runEndTaken s p)
  case guardExpiry g => cases h; exact .single (.guardTaken s g)
  case staleExpiry p => cases h; exact moves_takeStaleExpiry _ p s
  case releasePass => cases h; exact moves_takePass _ s
  case memoryAcknowledge data => cases h; exact moves_memoryAcknowledged data s
  case memoryPortTimeout => cases h; exact moves_memoryTimedOut _ s
  case cycleAbandon => cases h; exact moves_abandonCycle _ s
  case fetchRead data => cases h; exact moves_execFetchRead _ data s
  case indexStall => cases h; exact moves_serveIndexStall s
  case indexRead data => cases h; exact moves_execIndexRead data s
  case sweepVisit => cases h; exact moves_takeVisit _ s
  case unknownCommand code =>
    cases h
    split
    next => exact .refl
    next => exact moves_present _ _ _ s
  case submitAdvance => cases h; exact moves_acknowledgeSnoop _ _ s
  case takeAdvance => cases h; exact moves_acknowledgeSnoop _ _ s
  case slotWordWrite => cases h; exact moves_acknowledgeSnoop _ _ s
  case reportWordWrite => cases h; exact moves_acknowledgeSnoop _ _ s
  case sequenceWordWrite => cases h; exact moves_acknowledgeSnoop _ _ s
  all_goals cases h; exact moves_present _ _ _ s

theorem moves_trefEdge (B : Prop) (s : State) : Moves B s (trefEdge s) := by
  simp only [trefEdge]
  split
  next hset =>
    split
    next hlt => exact .single (.edge s hset hlt)
    next => exact .single (.boundary s hset)
  next => exact .refl

/-- A step is a chain of moves. -/
theorem moves_step {s s' : State} (h : step s = .next s') : Moves (BusSound s) s s' := by
  simp only [step] at h
  split at h
  next => cases h; exact moves_trefEdge _ s
  next c rest _ =>
    have hexec : Moves (BusSound s) (s.setPending rest) s' := moves_exec h
    exact hexec.after (.of_bpu_eq ⟨rfl, rfl, rfl, rfl, rfl, rfl⟩ rfl)

/-- What every move keeps, every step keeps. -/
theorem step_keeps {P : State → Prop} {s s' : State} (hmove : ∀ x y, Move (BusSound s) x y → P x → P y)
    (h : step s = .next s') (hs : P s) : P s' :=
  (moves_step h).keeps hmove hs

end Sys2Proof.Machine

/-! PROOFS. The clock unit (chapter 7): what a second boundary makes of the clock, and the statement that every step keeps
the clock sound (R133, R134, R136, R140). -/

namespace Sys2Proof.Machine

open Safety

/-! ### The clock at a second boundary (R135) -/

/-- The tally after the minute's addition (R136). -/
def minuteTally (s : State) : Nat := min (s.cbu.tally + minuteSum s) Config.tallyMax

/-- A minute's judgement finds the cap reached (R137). -/
def minuteHit (s : State) : Bool := capHit (bandCap s) (minuteTally s)

theorem minuteEffects_cbu (s : State) :
    (minuteEffects s).cbu = { s.cbu with tally := minuteTally s, capReached := s.cbu.capReached || minuteHit s } := by
  simp [minuteEffects, minuteTally, minuteHit]

theorem raiseFlagIf_csu (b : Bool) (f : EventFlag) (s : State) :
    (raiseFlagIf b f s).csu = { s.csu with flags := if b then flagsWith s f else s.csu.flags } := by
  cases b <;> rfl

theorem minuteEffects_csu (s : State) :
    (minuteEffects s).csu = { s.csu with
      flags := if minuteHit s && !s.cbu.capReached then flagsWith s .energyCap else s.csu.flags } :=
  raiseFlagIf_csu _ _ _

/-- The cases of a second boundary's clock effects: a band begins, or a minute, or neither (R135). -/
theorem clockEffects_cbu (s : State) :
    let now := epochAdd s.cbu.now 1
    let tod := timeOfDay now
    (clockEffects s).cbu =
      if tod % 1800 = 0 then
        { clockSet := s.cbu.clockSet, now, divider := 0, band := bandOf tod, tally := 0, capReached := false }
      else if tod % 60 = 0 then
        { s.cbu with now, divider := 0, tally := minuteTally s, capReached := s.cbu.capReached || minuteHit s }
      else { s.cbu with now, divider := 0 } := by
  intro now tod
  have hnow : (advanceNow s).cbu.now = now := rfl
  have hminute : (minuteEffects (advanceNow s)).cbu = { s.cbu with
      now, divider := 0, tally := minuteTally s, capReached := s.cbu.capReached || minuteHit s } :=
    minuteEffects_cbu (advanceNow s)
  simp only [clockEffects, hnow]
  by_cases hband : tod % 1800 = 0
  · have hmin : timeOfDay now % 60 = 0 := by simp only [tod] at hband; omega
    rw [if_pos hmin, if_pos hband, if_pos hband]
    simp [bandEffects, hminute, tod]
  · rw [if_neg hband]
    by_cases hmin : tod % 60 = 0
    · rw [if_pos hmin, if_neg hband, if_pos hmin, hminute]
    · rw [if_neg hmin, if_neg hband, if_neg hmin]
      rfl

@[simp] theorem secondBoundary_cbu (s : State) : (secondBoundary s).cbu = (clockEffects s).cbu := by
  simp [secondBoundary]

/-! ### The clock stays sound -/

/-- One second on, the band of the time of day is another only where a band begins (R133). -/
theorem bandOf_succ {now : Nat} (h : timeOfDay (epochAdd now 1) % 1800 ≠ 0) :
    bandOf (timeOfDay (epochAdd now 1)) = bandOf (timeOfDay now) := by
  simp only [timeOfDay, epochAdd, Config.epochCycle] at h ⊢
  simp only [bandOf]
  congr 1
  omega

theorem clockSound_of_cbu_eq {s s' : State} (h : s'.cbu = s.cbu) (hs : ClockSound s) : ClockSound s' := by
  simpa only [ClockSound, h] using hs

theorem clockSound_secondBoundary {s : State} (hset : s.cbu.clockSet = true) (hs : ClockSound s) :
    ClockSound (secondBoundary s) := by
  obtain ⟨-, -, hband, htally, -⟩ := hs
  have hzero : 0 < Config.trefPerSecond := by decide
  have hcycle : epochAdd s.cbu.now 1 < Config.epochCycle := Nat.mod_lt _ (by decide)
  have hmin : minuteTally s ≤ Config.tallyMax := Nat.min_le_right _ _
  simp only [ClockSound, secondBoundary_cbu, clockEffects_cbu]
  split
  next => exact ⟨hcycle, hzero, rfl, Nat.zero_le _, by simp [hset]⟩
  next hnew =>
    have hkept := hband.trans (bandOf_succ hnew).symm
    split
    next => exact ⟨hcycle, hzero, hkept, hmin, by simp [hset]⟩
    next => exact ⟨hcycle, hzero, hkept, htally, by simp [hset]⟩

/-- SET_TIME keeps the day, which ends within the clock's cycle. -/
theorem clockSound_setClock {tod : Nat} {s : State} (htod : tod < 86400) (hs : ClockSound s) :
    ClockSound (setClock tod s) := by
  have hnow : @LT.lt Nat _ s.cbu.now 4294944000 := hs.1
  have hday : timeOfDay (dayCount s.cbu.now * 86400 + tod) = tod := by
    simp only [timeOfDay, dayCount]; omega
  have hcbu : (setClock tod s).cbu =
      { clockSet := true, now := dayCount s.cbu.now * 86400 + tod, divider := 0, band := bandOf tod, tally := 0,
        capReached := false } := by simp [setClock]
  simp only [ClockSound, hcbu, hday]
  have hlt : dayCount s.cbu.now * 86400 + tod < Config.epochCycle := by
    simp only [dayCount, Config.epochCycle]
    omega
  exact ⟨hlt, by decide, trivial, Nat.zero_le _, nofun⟩

/-- With the clock not set the tally is 0, which reaches no cap. -/
theorem clockSound_judgeCapAfresh {s : State} (hs : ClockSound s) : ClockSound (judgeCapAfresh s) := by
  obtain ⟨hnow, hdivider, hband, htally, hunset⟩ := hs
  have hcbu : (judgeCapAfresh s).cbu = { s.cbu with capReached := capHit (bandCap s) s.cbu.tally } := by
    simp [judgeCapAfresh]
  simp only [ClockSound, hcbu]
  refine ⟨hnow, hdivider, hband, htally, fun hclear => ?_⟩
  obtain ⟨hnow0, hdivider0, htally0, -⟩ := hunset hclear
  refine ⟨hnow0, hdivider0, htally0, ?_⟩
  simp only [capHit, htally0, Bool.and_eq_false_iff, bne_eq_false_iff_eq, decide_eq_false_iff_not]
  omega

theorem clockSound_reset : ClockSound State.reset :=
  ⟨by decide, by decide, by decide, by decide, fun _ => ⟨rfl, rfl, rfl, rfl⟩⟩

theorem clockSound_move {B : Prop} {s s' : State} (h : Move B s s') (hs : ClockSound s) : ClockSound s' := by
  cases h with
  | inert hsame _ => exact clockSound_of_cbu_eq hsame.cbu hs
  | reset q => exact clockSound_reset
  | decoded c o _ => exact clockSound_of_cbu_eq (by simp) hs
  | snooped u x e t _ _ => exact clockSound_of_cbu_eq (by simp) hs
  | cancelled k t _ => exact clockSound_of_cbu_eq (by simp) hs
  | clockSet tod htod => exact clockSound_setClock htod hs
  | sweepStarted t kind _ => exact clockSound_of_cbu_eq (by simp) hs
  | lockoutCleared t _ _ => exact clockSound_of_cbu_eq (by simp) hs
  | swapped new a b _ => exact clockSound_of_cbu_eq (by simp) hs
  | capJudged => exact clockSound_judgeCapAfresh hs
  | boundary hset => exact clockSound_secondBoundary hset hs
  | edge hset hlt =>
    obtain ⟨hnow, -, hband, htally, -⟩ := hs
    exact ⟨hnow, hlt, hband, htally, by simp [hset]⟩
  | confirmTaken p => exact clockSound_of_cbu_eq (by simp) hs
  | runEndTaken p => exact clockSound_of_cbu_eq (by simp) hs
  | guardTaken g => exact clockSound_of_cbu_eq (by simp) hs
  | passTaken t _ => exact clockSound_of_cbu_eq (by simp) hs
  | visited t _ => exact clockSound_of_cbu_eq (by simp) hs

/-- Settles O54: only the second boundary, an edge, SET_TIME and a reload's cap judgement write the clock. -/
theorem stepKeepsClock : Obligations.StepKeepsClock := fun _ _ hs hstep =>
  step_keeps (fun _ _ => clockSound_move) hstep hs

end Sys2Proof.Machine

/-! PROOFS. Indexes and slots (1.1, 1.2): the slots of a ring, counted from an index on, and the distances between
indexes. -/

namespace Sys2Proof.Machine

open Safety

/-! ### Distances -/

theorem indexAfter_toNat (a : Word) (d : Nat) : (indexAfter a d).toNat = (a.toNat + d) % 65536 := by
  simp [indexAfter, BitVec.toNat_add]

theorem dist_indexAfter (a : Word) {d : Nat} (h : d < 65536) : dist a (indexAfter a d) = d := by
  have := a.isLt
  simp only [dist, BitVec.toNat_sub, indexAfter_toNat]
  omega

theorem indexAfter_dist (a b : Word) : indexAfter a (dist a b) = b := by
  have ha := a.isLt
  have hb := b.isLt
  apply BitVec.eq_of_toNat_eq
  simp only [indexAfter_toNat, dist, BitVec.toNat_sub]
  omega

theorem dist_lt (a b : Word) : dist a b < 65536 := (b - a).isLt

theorem dist_self (a : Word) : dist a a = 0 := by simp [dist]

theorem dist_eq_zero_iff {a b : Word} : dist a b = 0 ↔ a = b := by
  refine ⟨fun h => ?_, fun h => h ▸ dist_self a⟩
  have := indexAfter_dist a b
  simpa [h, indexAfter] using this

theorem indexAfter_zero (a : Word) : indexAfter a 0 = a := by simp [indexAfter]

theorem indexAfter_indexAfter (a : Word) (c d : Nat) : indexAfter (indexAfter a c) d = indexAfter a (c + d) := by
  apply BitVec.eq_of_toNat_eq
  simp only [indexAfter_toNat]
  omega

theorem indexAfter_one (a : Word) : indexAfter a 1 = a + 1 := rfl

/-- Distances add along the indexes as long as they stay within one turn. -/
theorem dist_add {a b c : Word} (h : dist a b + dist b c < 65536) : dist a c = dist a b + dist b c := by
  have hc : c = indexAfter a (dist a b + dist b c) := by
    rw [← indexAfter_indexAfter, indexAfter_dist, indexAfter_dist]
  conv_lhs => rw [hc]
  exact dist_indexAfter a h

/-- One index on, the distance to a later index is one less. -/
theorem dist_succ_left {a b : Word} (h : a ≠ b) : dist (a + 1) b + 1 = dist a b := by
  have hpos : dist a b ≠ 0 := fun hz => h (dist_eq_zero_iff.mp hz)
  have hlt := dist_lt a b
  have hb : b = indexAfter (a + 1) (dist a b - 1) := by
    rw [← indexAfter_one, indexAfter_indexAfter, show 1 + (dist a b - 1) = dist a b by omega, indexAfter_dist]
  conv_lhs => rw [hb]
  rw [dist_indexAfter _ (by omega)]
  omega

theorem dist_succ_right {a b : Word} (h : dist a b < 65535) : dist a (b + 1) = dist a b + 1 := by
  have hb : b + 1 = indexAfter a (dist a b + 1) := by
    rw [← indexAfter_indexAfter, indexAfter_dist, indexAfter_one]
  rw [hb, dist_indexAfter a (by omega)]

/-! ### Slots (R1) -/

theorem RingSize.slots_pos (n : RingSize) : 0 < n.slots := by cases n <;> decide

theorem RingSize.slots_le (n : RingSize) : n.slots ≤ 64 := by cases n <;> decide

theorem RingSize.slots_dvd (n : RingSize) : n.slots ∣ 65536 := by cases n <;> decide

theorem slotOf_val (n : RingSize) (i : Word) : (slotOf n i).val = i.toNat % n.slots := by
  have hlt : i.toNat % n.slots < 64 := (Nat.mod_lt _ n.slots_pos).trans_le n.slots_le
  simp [slotOf, Nat.mod_eq_of_lt hlt]

theorem slotOf_lt (n : RingSize) (i : Word) : (slotOf n i).val < n.slots := by
  rw [slotOf_val]
  exact Nat.mod_lt _ n.slots_pos

/-- The slots of successive indexes go round the ring, whose size divides the number of indexes. -/
theorem slotOf_indexAfter_val (n : RingSize) (a : Word) (d : Nat) :
    (slotOf n (indexAfter a d)).val = (a.toNat + d) % n.slots := by
  rw [slotOf_val, indexAfter_toNat, Nat.mod_mod_of_dvd _ n.slots_dvd]

theorem slotOf_indexAfter_inj {n : RingSize} {a : Word} {c d : Nat} (hc : c < n.slots) (hd : d < n.slots)
    (h : slotOf n (indexAfter a c) = slotOf n (indexAfter a d)) : c = d := by
  have hval := congrArg Fin.val h
  rw [slotOf_indexAfter_val, slotOf_indexAfter_val] at hval
  have hmod : c ≡ d [MOD n.slots] := Nat.ModEq.add_left_cancel' _ hval
  exact hmod.eq_of_lt_of_lt hc hd

theorem distToSlot_lt (n : RingSize) (a : Word) (k : Fin 64) : distToSlot n a k < n.slots := Nat.mod_lt _ n.slots_pos

/-- The index at a slot's distance has that slot. -/
theorem slotOf_distToSlot {n : RingSize} (a : Word) {k : Fin 64} (hk : k.val < n.slots) :
    slotOf n (indexAfter a (distToSlot n a k)) = k := by
  apply Fin.ext
  rw [slotOf_indexAfter_val, distToSlot]
  cases n <;> simp only [RingSize.slots] at hk ⊢ <;> omega

/-- The distance of the slot of an index on. -/
theorem distToSlot_slotOf {n : RingSize} (a : Word) {d : Nat} (hd : d < n.slots) :
    distToSlot n a (slotOf n (indexAfter a d)) = d := by
  refine slotOf_indexAfter_inj (distToSlot_lt n a _) hd (a := a) ?_
  exact slotOf_distToSlot a (slotOf_lt n _)

theorem mem_slotsFrom {n : RingSize} {a : Word} {k : Fin 64} : k ∈ slotsFrom n a ↔ k.val < n.slots := by
  simp only [slotsFrom, List.mem_map, List.mem_range]
  constructor
  · rintro ⟨d, -, rfl⟩
    exact slotOf_lt n _
  · intro hk
    exact ⟨distToSlot n a k, distToSlot_lt n a k, slotOf_distToSlot a hk⟩

/-- The slots from an index on come in the order of their distance from it. -/
theorem slotsFrom_pairwise (n : RingSize) (a : Word) :
    (slotsFrom n a).Pairwise fun j k => distToSlot n a j < distToSlot n a k := by
  refine List.pairwise_map.mpr (List.pairwise_lt_range.imp_of_mem fun {c d} hc hd h => ?_)
  rw [distToSlot_slotOf a (List.mem_range.mp hc), distToSlot_slotOf a (List.mem_range.mp hd)]
  exact h

end Sys2Proof.Machine

/-! PROOFS. The Order Book through passes, requests and admissions (chapters 2 and 4): which entries stay FREE, WAITING or
finished, and the statement that no pump has more than two WAITING host orders (R36). -/

namespace Sys2Proof.Machine

open Safety

/-! ### The eligible host orders and the winner among them (R77) -/

theorem mem_hostCandidates {t : Tables} {s : State} {k : Fin 64} {o : Order} : (k, o) ∈ hostCandidates t s ↔
    k.val < t.map.ringSize.slots ∧ waitingOrder (s.ob.at k) = some o ∧ judgeHost t s k o = .eligible := by
  simp only [hostCandidates, List.mem_filterMap, mem_slotsFrom]
  constructor
  · rintro ⟨j, hj, h⟩
    split at h
    next q hq =>
      obtain ⟨heligible, hpair⟩ := Option.ite_none_right_eq_some.mp h
      cases hpair
      exact ⟨hj, hq, heligible⟩
    next => cases h
  · rintro ⟨hk, ho, heligible⟩
    exact ⟨k, hk, by simp [ho, heligible]⟩

/-- Of the two, `x` has the higher priority, or the same and comes first. -/
def Beats (before : Fin 64 × Order → Fin 64 × Order → Prop) (x y : Fin 64 × Order) : Prop :=
  y.2.priority < x.2.priority ∨ (y.2.priority = x.2.priority ∧ (x = y ∨ before x y))

theorem foldl_betterHost_eq_none {l : List (Fin 64 × Order)} : l.foldl betterHost none = none ↔ l = [] := by
  refine ⟨fun h => ?_, fun h => h ▸ rfl⟩
  cases l using List.reverseRecOn with
  | nil => rfl
  | append_singleton l b =>
    rw [List.foldl_append, List.foldl_cons, List.foldl_nil] at h
    unfold betterHost at h
    split at h <;> (try split at h) <;> cases h

/-- Candidates met in order leave the best of them, the first of equals. -/
theorem foldl_betterHost_some {before : Fin 64 × Order → Fin 64 × Order → Prop} {l : List (Fin 64 × Order)}
    (hl : l.Pairwise before) {x : Fin 64 × Order} (hx : l.foldl betterHost none = some x) :
    x ∈ l ∧ ∀ y ∈ l, Beats before x y := by
  induction l using List.reverseRecOn generalizing x with
  | nil => cases hx
  | append_singleton l a ih =>
    obtain ⟨hl', -, hlast⟩ := List.pairwise_append.mp hl
    rw [List.foldl_append, List.foldl_cons, List.foldl_nil] at hx
    cases hbest : l.foldl betterHost none with
    | none =>
      have hnil : l = [] := foldl_betterHost_eq_none.mp hbest
      subst hnil
      cases hx
      simp [Beats]
    | some b =>
      obtain ⟨hb, hbeats⟩ := ih hl' hbest
      rw [hbest] at hx
      simp only [betterHost] at hx
      split at hx
      next hlt =>
        cases hx
        refine ⟨by simp, fun y hy => ?_⟩
        rcases List.mem_append.mp hy with hy | hy
        · have := hbeats y hy
          exact .inl (by simp only [Beats] at this; omega)
        · exact .inr (by simp_all)
      next hle =>
        cases hx
        refine ⟨by simp [hb], fun y hy => ?_⟩
        rcases List.mem_append.mp hy with hy | hy
        · exact hbeats y hy
        · obtain rfl : y = a := by simpa using hy
          by_cases heq : y.2.priority = x.2.priority
          · exact .inr ⟨heq, .inr (hlast x hb y (by simp))⟩
          · exact .inl (by omega)

theorem hostCandidates_pairwise (t : Tables) (s : State) : (hostCandidates t s).Pairwise fun x y =>
    distToSlot t.map.ringSize s.rt.reclaim x.1 < distToSlot t.map.ringSize s.rt.reclaim y.1 := by
  refine List.Pairwise.filterMap _ (fun j k h x hx y hy => ?_) (slotsFrom_pairwise t.map.ringSize s.rt.reclaim)
  have hfst {k : Fin 64} {x : Fin 64 × Order} (hx : (match waitingOrder (s.ob.at k) with
      | some o => if judgeHost t s k o = .eligible then some (k, o) else none
      | none => none) = some x) : x.1 = k := by
    split at hx
    next => obtain ⟨-, h⟩ := Option.ite_none_right_eq_some.mp hx; cases h; rfl
    next => cases hx
  rwa [hfst hx, hfst hy]

/-- The host order that wins is eligible, and beats every eligible one (R77). -/
theorem hostWinner_eq_some {t : Tables} {s : State} {k : Fin 64} {o : Order} (h : hostWinner t s = some (k, o)) :
    (k, o) ∈ hostCandidates t s ∧ ∀ j q, (j, q) ∈ hostCandidates t s →
      q.priority < o.priority ∨ (q.priority = o.priority ∧
        distToSlot t.map.ringSize s.rt.reclaim k ≤ distToSlot t.map.ringSize s.rt.reclaim j) := by
  obtain ⟨hmem, hbeats⟩ := foldl_betterHost_some (hostCandidates_pairwise t s) h
  refine ⟨hmem, fun j q hj => ?_⟩
  rcases hbeats (j, q) hj with hlt | ⟨heq, hsame | hbefore⟩
  · exact .inl hlt
  · cases hsame; exact .inr ⟨heq, Nat.le_refl _⟩
  · exact .inr ⟨heq, hbefore.le⟩

theorem hostWinner_eq_none {t : Tables} {s : State} : hostWinner t s = none ↔ hostCandidates t s = [] :=
  foldl_betterHost_eq_none

/-! ### What becomes of an entry -/

/-- No entry turns FREE, leaves FREE or comes to be WAITING, and the ring's indexes stand. -/
structure EntriesKept (s s' : State) : Prop where
  free : ∀ k, (s'.ob.at k).state = .free ↔ (s.ob.at k).state = .free
  waiting : ∀ k o, waitingOrder (s'.ob.at k) = some o → waitingOrder (s.ob.at k) = some o
  reclaim : s'.rt.reclaim = s.rt.reclaim
  submit : s'.rt.submit = s.rt.submit

/-- No entry comes to be finished (R22). -/
def NoneFinished (s s' : State) : Prop :=
  ∀ k, finished (s'.ob.at k).state = true → finished (s.ob.at k).state = true

section
variable {s s' s'' : State}

theorem EntriesKept.trans (h : EntriesKept s s') (h' : EntriesKept s' s'') : EntriesKept s s'' :=
  ⟨fun k => (h'.free k).trans (h.free k), fun k o ho => h.waiting k o (h'.waiting k o ho), h'.reclaim.trans h.reclaim,
    h'.submit.trans h.submit⟩

theorem EntriesKept.of_eq (hob : s'.ob = s.ob) (hrt : s'.rt = s.rt) : EntriesKept s s' := by
  constructor <;> simp [hob, hrt]

theorem EntriesKept.refl : EntriesKept s s := .of_eq rfl rfl

theorem NoneFinished.trans (h : NoneFinished s s') (h' : NoneFinished s' s'') : NoneFinished s s'' :=
  fun k hk => h k (h' k hk)

theorem NoneFinished.of_ob_eq (hob : s'.ob = s.ob) : NoneFinished s s' := fun k hk => by rwa [hob] at hk

/-- One entry written whose FREE state stands and that is not WAITING, unless it was with this order. -/
theorem EntriesKept.putEntry {k : Fin 64} {e : Entry} (hfree : e.state = .free ↔ (s.ob.at k).state = .free)
    (hwaiting : ∀ o, waitingOrder e = some o → waitingOrder (s.ob.at k) = some o) : EntriesKept s (putEntry k e s) := by
  refine ⟨fun j => ?_, fun j o => ?_, by simp, by simp⟩ <;> simp only [putEntry_ob, Tab.at_put] <;> split
  next h => exact h ▸ hfree
  next => rfl
  next h => exact h ▸ hwaiting o
  next => exact id

end

theorem waitingOrder_leaveWaiting {st : EntryState} (h : st ≠ .waiting) (r : Reason) (e : Entry) :
    waitingOrder (leaveWaiting st r e) = none := by simp [waitingOrder, leaveWaiting, h]

theorem waitingOrder_eq_some {e : Entry} {o : Order} :
    waitingOrder e = some o ↔ e.state = .waiting ∧ e.order = some o := by
  simp [waitingOrder]

/-! ### The judgements of a round and the expiry stage -/

theorem judgedEntry_free (t : Tables) (s : State) (k : Fin 64) :
    (judgedEntry t s k).state = .free ↔ (s.ob.at k).state = .free := by
  simp only [judgedEntry]
  split
  next => rfl
  next o ho =>
    have hstate := (waitingOrder_eq_some.mp ho).1
    split <;> simp [leaveWaiting, hstate]

theorem judgedEntry_waiting {t : Tables} {s : State} {k : Fin 64} {o : Order}
    (h : waitingOrder (judgedEntry t s k) = some o) : waitingOrder (s.ob.at k) = some o := by
  simp only [judgedEntry] at h
  split at h
  next => exact h
  next q hq =>
    split at h
    next => exact h
    next => exact h
    next r _ => rw [waitingOrder_leaveWaiting (by decide)] at h; cases h

theorem recordJudgements_ob (t : Tables) (s : State) (k : Fin 64) :
    (recordJudgements t s).ob.at k = judgedEntry t s k := by
  simp [recordJudgements]

theorem entriesKept_recordJudgements (t : Tables) (s : State) : EntriesKept s (recordJudgements t s) :=
  ⟨fun k => by rw [recordJudgements_ob]; exact judgedEntry_free t s k,
    fun k o ho => judgedEntry_waiting (by rwa [recordJudgements_ob] at ho), by simp, by simp⟩

/-- A round that refuses nothing finishes nothing. -/
theorem noneFinished_recordJudgements {t : Tables} {s : State} (h : refusesAny t s = false) :
    NoneFinished s (recordJudgements t s) := by
  intro k hk
  rw [recordJudgements_ob] at hk
  simp only [judgedEntry] at hk
  split at hk
  next => exact hk
  next o ho =>
    split at hk
    next => exact hk
    next => exact hk
    next r hr =>
      have hnone := List.any_eq_false.mp h k (List.mem_finRange k)
      simp [ho, hr] at hnone

/-- An eligible order stands as it was when the judgements are written. -/
theorem recordJudgements_eligible {t : Tables} {s : State} {k : Fin 64} {o : Order}
    (ho : waitingOrder (s.ob.at k) = some o) (h : judgeHost t s k o = .eligible) :
    (recordJudgements t s).ob.at k = s.ob.at k := by
  simp [recordJudgements_ob, judgedEntry, ho, h]

theorem expireLate_ob (s : State) (k : Fin 64) : (expireLate s).ob.at k =
    if lateOrder s.cbu.now (s.ob.at k) then leaveWaiting .expired (s.ob.at k).reason (s.ob.at k) else s.ob.at k := by
  simp [expireLate]

theorem waiting_of_lateOrder {now : Epoch} {e : Entry} (h : lateOrder now e = true) : e.state = .waiting := by
  simp only [lateOrder, Option.any_eq_true] at h
  obtain ⟨o, ho, -⟩ := h
  exact (waitingOrder_eq_some.mp ho).1

theorem entriesKept_expireLate (s : State) : EntriesKept s (expireLate s) := by
  refine ⟨fun k => ?_, fun k o ho => ?_, by simp, by simp⟩
  · rw [expireLate_ob]
    split
    next h => simp [leaveWaiting, waiting_of_lateOrder h]
    next => rfl
  · rw [expireLate_ob] at ho
    split at ho
    next => rw [waitingOrder_leaveWaiting (by decide)] at ho; cases ho
    next => exact ho

theorem noneFinished_expireLate {s : State} (h : expiresAny s = false) : NoneFinished s (expireLate s) := by
  intro k hk
  have hnone : ¬ lateOrder s.cbu.now (s.ob.at k) = true := List.any_eq_false.mp h k (List.mem_finRange k)
  rwa [expireLate_ob, if_neg hnone] at hk

/-! ### Releases and rounds -/

theorem markReleased_ob (k : Fin 64) (s : State) : (markReleased k s).ob =
    s.ob.put k { leaveWaiting .released .none (s.ob.at k) with grant := some s.cbu.now } := by
  simp only [markReleased]
  split <;> simp

theorem releaseHost_ob (t : Tables) (k : Fin 64) (o : Order) (s : State) : (releaseHost t k o s).ob =
    s.ob.put k { leaveWaiting .released .none (s.ob.at k) with grant := some s.cbu.now } := by
  simp [releaseHost, markReleased_ob]

theorem releaseHost_rt (t : Tables) (k : Fin 64) (o : Order) (s : State) : (releaseHost t k o s).rt =
    { s.rt with list := s.rt.list ++ [{ origin := .host k, grant := s.cbu.now }], release := s.rt.release + 1 } := by
  simp [releaseHost, appendRelease]

theorem releaseInternal_rt (t : Tables) (e : Fin 8) (o : InternalOrder) (s : State) : (releaseInternal t e o s).rt =
    { s.rt with list := s.rt.list ++ [{ origin := .internal e, grant := s.cbu.now }], release := s.rt.release + 1 } := by
  simp [releaseInternal, appendRelease]

theorem entriesKept_releaseInternal (t : Tables) (e : Fin 8) (o : InternalOrder) (s : State) :
    EntriesKept s (releaseInternal t e o s) := by
  constructor <;> simp [releaseInternal_rt]

theorem entriesKept_releaseHost (t : Tables) {k : Fin 64} {o q : Order} {s : State}
    (hk : waitingOrder (s.ob.at k) = some q) : EntriesKept s (releaseHost t k o s) := by
  have hstate := (waitingOrder_eq_some.mp hk).1
  have hput : EntriesKept s
      (putEntry k { leaveWaiting .released .none (s.ob.at k) with grant := some s.cbu.now } s) :=
    .putEntry (by simp [leaveWaiting, hstate]) fun o ho => by simp [waitingOrder, leaveWaiting] at ho
  obtain ⟨hfree, hwaiting, -, -⟩ := hput
  refine ⟨?_, ?_, by simp [releaseHost_rt], by simp [releaseHost_rt]⟩ <;> rw [releaseHost_ob]
  · exact hfree
  · exact hwaiting

theorem noneFinished_releaseHost (t : Tables) (k : Fin 64) (o : Order) (s : State) :
    NoneFinished s (releaseHost t k o s) := by
  intro j hj
  rw [releaseHost_ob, Tab.at_put] at hj
  split at hj
  next => simp [leaveWaiting, finished] at hj
  next => exact hj

theorem entriesKept_withdrawAll (t : Tables) (q : Nat) (s : State) : EntriesKept s (withdrawAll t q s) :=
  .of_eq (by simp) (by simp)

/-- The three ways a round ends (R76): it releases an internal entry, a host order, or nothing. -/
theorem releaseRound_cases (t : Tables) (seq0 : Nat) (s : State) :
    let judged := withdrawAll t seq0 s
    let written := recordJudgements t judged
    let r := releaseRound t seq0 s
    (∃ e o, internalWinner t seq0 judged = some (e, o) ∧ r.state = releaseInternal t e o written ∧
        r.progressed = true ∧ r.hostMoved = refusesAny t judged)
      ∨ (internalWinner t seq0 judged = none ∧ ∃ k o, hostWinner t judged = some (k, o) ∧
          r.state = releaseHost t k o written ∧ r.progressed = true ∧ r.hostMoved = true)
      ∨ (internalWinner t seq0 judged = none ∧ hostWinner t judged = none ∧ r.state = written ∧
          r.progressed = (refusesAny t judged || !(withdrawals s seq0).isEmpty) ∧ r.hostMoved = refusesAny t judged) := by
  intro judged written r
  have hr : r = match internalWinner t seq0 judged with
      | some (e, o) =>
        { state := releaseInternal t e o written, progressed := true, hostMoved := refusesAny t judged }
      | none =>
        match hostWinner t judged with
        | some (k, o) => { state := releaseHost t k o written, progressed := true, hostMoved := true }
        | none =>
          { state := written, progressed := refusesAny t judged || !(withdrawals s seq0).isEmpty,
            hostMoved := refusesAny t judged } := rfl
  cases hi : internalWinner t seq0 judged with
  | some x => exact .inl ⟨x.1, x.2, rfl, by simp only [hr, hi], by simp only [hr, hi], by simp only [hr, hi]⟩
  | none =>
    cases hh : hostWinner t judged with
    | some x =>
      exact .inr (.inl ⟨rfl, x.1, x.2, rfl, by simp only [hr, hi, hh], by simp only [hr, hi, hh],
        by simp only [hr, hi, hh]⟩)
    | none =>
      exact .inr (.inr ⟨rfl, rfl, by simp only [hr, hi, hh], by simp only [hr, hi, hh], by simp only [hr, hi, hh]⟩)

/-- The host order that wins a round still waits when the judgements are written. -/
theorem waitingOrder_of_hostWinner {t : Tables} {s : State} {k : Fin 64} {o : Order} (h : hostWinner t s = some (k, o)) :
    waitingOrder ((recordJudgements t s).ob.at k) = some o := by
  obtain ⟨-, ho, heligible⟩ := mem_hostCandidates.mp (hostWinner_eq_some h).1
  rw [recordJudgements_eligible ho heligible, ho]

theorem entriesKept_releaseRound (t : Tables) (seq0 : Nat) (s : State) : EntriesKept s (releaseRound t seq0 s).state := by
  have hwritten := (entriesKept_withdrawAll t seq0 s).trans (entriesKept_recordJudgements t (withdrawAll t seq0 s))
  rcases releaseRound_cases t seq0 s with ⟨e, o, -, h, -⟩ | ⟨-, k, o, hwin, h, -⟩ | ⟨-, -, h, -⟩ <;> rw [h]
  · exact hwritten.trans (entriesKept_releaseInternal t e o _)
  · exact hwritten.trans (entriesKept_releaseHost t (waitingOrder_of_hostWinner hwin))
  · exact hwritten

theorem noneFinished_releaseRound {t : Tables} {seq0 : Nat} {s : State} (hmoved : (releaseRound t seq0 s).hostMoved = false) :
    NoneFinished s (releaseRound t seq0 s).state := by
  have hsame : NoneFinished s (withdrawAll t seq0 s) := .of_ob_eq (by simp)
  rcases releaseRound_cases t seq0 s with ⟨e, o, -, h, -, hm⟩ | ⟨-, k, o, -, -, -, hm⟩ | ⟨-, -, h, -, hm⟩ <;>
    rw [hmoved] at hm
  · rw [h]
    exact (hsame.trans (noneFinished_recordJudgements hm.symm)).trans (.of_ob_eq (by simp))
  · cases hm
  · rw [h]
    exact hsame.trans (noneFinished_recordJudgements hm.symm)

theorem entriesKept_releaseRounds (t : Tables) (seq0 n : Nat) (s : State) :
    EntriesKept s (releaseRounds t seq0 n s).1 := by
  induction n generalizing s with
  | zero => exact .refl
  | succ n ih =>
    simp only [releaseRounds]
    split
    next => exact (entriesKept_releaseRound t seq0 s).trans (ih _)
    next => exact entriesKept_releaseRound t seq0 s

theorem noneFinished_releaseRounds {t : Tables} {seq0 n : Nat} {s : State} (h : (releaseRounds t seq0 n s).2 = false) :
    NoneFinished s (releaseRounds t seq0 n s).1 := by
  induction n generalizing s with
  | zero => exact .of_ob_eq rfl
  | succ n ih =>
    simp only [releaseRounds] at h ⊢
    split at h
    next hp =>
      obtain ⟨hround, hrest⟩ := Bool.or_eq_false_iff.mp h
      rw [if_pos hp]
      exact (noneFinished_releaseRound hround).trans (ih hrest)
    next hp =>
      rw [if_neg hp]
      exact noneFinished_releaseRound h

/-! ### Admission and the queues (R35, R36) -/

/-- An admitted order finds fewer than two orders of its pump WAITING. -/
theorem waitingCount_lt_of_admission_ok {t : Tables} {s : State} {e : Entry} {o : Order}
    (h : admission t s e = .ok o) : waitingCount s o.pump < 2 := by
  simp only [admission] at h
  repeat' split at h
  all_goals first | (cases h; done) | skip
  next hcount => cases h; exact Nat.lt_of_not_le hcount

/-- Orders of the pump that were not WAITING before stand in one slot at most, so their number rises by one at most. -/
theorem waitingCount_le_succ {s s' : State} {k : Fin 64} (h : ∀ j, j ≠ k → s'.ob.at j = s.ob.at j) (p : Fin 32) :
    waitingCount s' p ≤ waitingCount s p + 1 := by
  simp only [waitingCount, List.countP_eq_length_filter]
  have hsplit (f : Fin 64 → Bool) : ((List.finRange 64).filter f).length = (Finset.univ.filter fun j => f j = true).card := by
    rw [← List.toFinset_card_of_nodup ((List.nodup_finRange 64).filter _)]
    congr 1
    ext j
    simp
  rw [hsplit, hsplit]
  refine (Finset.card_le_card (t := insert k _) fun j hj => ?_).trans (Finset.card_insert_le k _)
  by_cases hjk : j = k
  · simp [hjk]
  · simp only [Finset.mem_filter, h j hjk] at hj
    exact Finset.mem_insert_of_mem (by simpa using hj)

theorem waitingCount_mono {s s' : State} (p : Fin 32)
    (h : ∀ k o, waitingOrder (s'.ob.at k) = some o → o.pump = p → waitingOrder (s.ob.at k) = some o) :
    waitingCount s' p ≤ waitingCount s p := by
  refine List.countP_mono_left fun k _ hk => ?_
  simp only [Option.any_eq_true, beq_iff_eq] at hk ⊢
  obtain ⟨o, ho, hp⟩ := hk
  exact ⟨o, h k o ho hp, hp⟩

/-- No entry comes to be WAITING with another order. -/
def NoneWaiting (s s' : State) : Prop := ∀ k o, waitingOrder (s'.ob.at k) = some o → waitingOrder (s.ob.at k) = some o

theorem queuesSound_of_noneWaiting {s s' : State} (h : NoneWaiting s s') (hs : QueuesSound s) : QueuesSound s' :=
  fun p => (waitingCount_mono p fun k o ho _ => h k o ho).trans (hs p)

theorem queuesSound_of_ob_eq {s s' : State} (h : s'.ob = s.ob) (hs : QueuesSound s) : QueuesSound s' :=
  queuesSound_of_noneWaiting (fun k o ho => by rwa [h] at ho) hs

theorem NoneWaiting.trans {s s' s'' : State} (h : NoneWaiting s s') (h' : NoneWaiting s' s'') : NoneWaiting s s'' :=
  fun k o ho => h k o (h' k o ho)

/-- What admission leaves in its slot: the order WAITING, or the entry REFUSED. -/
theorem admitIndex_ob (t : Tables) (i : Word) (s : State) :
    let k := slotOf t.map.ringSize i
    let e := s.ob.at k
    (∃ o, admission t s e = .ok o ∧ (admitIndex t i s).ob = s.ob.put k { e with
        state := .waiting, reason := .pending, order := some o, grant := none, mark := false, late := false })
      ∨ ∃ r, admission t s e = .error r ∧ (admitIndex t i s).ob = s.ob.put k { e with state := .refused, reason := r } := by
  intro k e
  cases ha : admission t s e with
  | ok o => exact .inl ⟨o, rfl, by rw [(admitIndex_admitted t i s).1 o ha]; rfl⟩
  | error r => exact .inr ⟨r, rfl, by rw [(admitIndex_admitted t i s).2 r ha]; rfl⟩

theorem queuesSound_admitIndex {s : State} (t : Tables) (i : Word) (hs : QueuesSound s) :
    QueuesSound (admitIndex t i s) := by
  rcases admitIndex_ob t i s with ⟨o, ha, hob⟩ | ⟨r, -, hob⟩
  · intro p
    by_cases hp : p = o.pump
    · have hsucc := waitingCount_le_succ (s := s) (s' := admitIndex t i s) (k := slotOf t.map.ringSize i)
        (fun j hj => by rw [hob, Tab.at_put_other _ _ hj]) p
      have := waitingCount_lt_of_admission_ok ha
      subst hp
      omega
    · refine (waitingCount_mono p fun k q hq hqp => ?_).trans (hs p)
      rw [hob, Tab.at_put] at hq
      split at hq
      next =>
        obtain rfl : o = q := by simpa [waitingOrder] using hq
        exact absurd hqp.symm hp
      next => exact hq
  · refine queuesSound_of_noneWaiting (fun k q hq => ?_) hs
    rw [hob, Tab.at_put] at hq
    split at hq
    next => simp [waitingOrder] at hq
    next => exact hq

theorem queuesSound_admitFrom (t : Tables) (n : Nat) (i : Word) {s : State} (hs : QueuesSound s) :
    QueuesSound (admitFrom t n i s) := by
  induction n generalizing i s with
  | zero => exact hs
  | succ n ih => exact ih _ (queuesSound_admitIndex t i hs)

theorem noneWaiting_reclaimAdvance (t : Tables) (s : State) : NoneWaiting s (reclaimAdvance t s) := by
  intro k o ho
  rcases reclaimAdvance_ob t s k with h | ⟨-, h⟩ <;> rw [h] at ho
  · exact ho
  · cases ho

theorem queuesSound_reclaimAdvance (t : Tables) {s : State} (hs : QueuesSound s) : QueuesSound (reclaimAdvance t s) :=
  queuesSound_of_noneWaiting (noneWaiting_reclaimAdvance t s) hs

theorem queuesSound_requestPass {s : State} (hs : QueuesSound s) : QueuesSound (requestPass s) :=
  queuesSound_of_ob_eq (by simp) hs

/-! ### Requests, dispatches and sweeps -/

/-- A WAITING entry that a request or a visit cancels. -/
theorem entriesKept_cancelled {k : Fin 64} {s : State} (h : (s.ob.at k).state = .waiting) (r : Reason) :
    EntriesKept s (putEntry k (leaveWaiting .cancelled r (s.ob.at k)) s) := by
  refine .putEntry (by simp [leaveWaiting, h]) fun o ho => ?_
  rw [waitingOrder_leaveWaiting (by decide)] at ho
  cases ho

/-- A RELEASED entry dispatched (R39). -/
theorem entriesKept_entryDispatched (k : Fin 64) (s : State) : EntriesKept s (entryDispatched k s) := by
  simp only [entryDispatched]
  split
  next h => exact .putEntry (by simp [h]) fun o ho => by simp [waitingOrder] at ho
  next => exact .refl

theorem entriesKept_dispatchNotice (t : Tables) (i : Word) (a : Origin) (s : State) :
    EntriesKept s (dispatchNotice t i a s) := by
  cases a with
  | host k =>
    simp only [dispatchNotice]
    split
    next => exact (entriesKept_entryDispatched k s).trans (.of_eq (by simp) (by simp))
    next => exact entriesKept_entryDispatched k s
  | internal e =>
    simp only [dispatchNotice]
    split
    next => exact .of_eq (by simp) (by simp)
    next => exact .refl

theorem entriesKept_takePositions (t : Tables) (n : Nat) (i : Word) (s : State) :
    EntriesKept s (takePositions t n i s) := by
  induction n generalizing i s with
  | zero => exact .refl
  | succ n ih =>
    simp only [takePositions]
    split
    next => exact .refl
    next x rest _ =>
      have hlist : EntriesKept s (s.setRt { s.rt with list := rest }) := ⟨fun _ => .rfl, fun _ _ h => h, rfl, rfl⟩
      exact (hlist.trans (entriesKept_dispatchNotice t i x.origin _)).trans (ih _ _)

theorem startSweep_ob (t : Tables) (kind : SweepKind) (s : State) (k : Fin 64) : (startSweep t kind s).ob.at k =
    if (waitingOrder (s.ob.at k)).any (sweepMatches t kind (argument s 0)) then { s.ob.at k with mark := true }
    else s.ob.at k := by
  simp [startSweep]

theorem entriesKept_startSweep (t : Tables) (kind : SweepKind) (s : State) : EntriesKept s (startSweep t kind s) := by
  refine ⟨fun k => ?_, fun k o ho => ?_, by simp, by simp⟩
  · rw [startSweep_ob]
    split <;> rfl
  · rw [startSweep_ob] at ho
    split at ho
    next => exact ho
    next => exact ho

/-! ### The queues stay within two (R36) -/

theorem queuesSound_releasePass (t : Tables) {s : State} (hs : QueuesSound s) : QueuesSound (releasePass t s) := by
  have hrounds : QueuesSound (releaseRounds t s.ilu.nextSeq 73 (expireLate s)).1 :=
    queuesSound_of_noneWaiting
      ((entriesKept_expireLate s).trans (entriesKept_releaseRounds t s.ilu.nextSeq 73 _)).waiting hs
  simp only [releasePass]
  split
  next => exact queuesSound_reclaimAdvance t hrounds
  next => exact hrounds

theorem queuesSound_cancelSlot (t : Tables) (k : Fin 64) {s : State} (hs : QueuesSound s) :
    QueuesSound (cancelSlot t k s) := by
  have hlate (h : (s.ob.at k).state ≠ .waiting) :
      QueuesSound (raiseFlag .lateCancel (putEntry k { s.ob.at k with late := true } s)) :=
    queuesSound_of_noneWaiting (fun j o ho => by
      simp only [raiseFlag_keeps, putEntry_ob, Tab.at_put] at ho
      split at ho
      next => simp [waitingOrder, h] at ho
      next => exact ho) hs
  simp only [cancelSlot]
  split
  next hstate =>
    exact queuesSound_requestPass (queuesSound_reclaimAdvance t
      (queuesSound_of_noneWaiting (entriesKept_cancelled hstate _).waiting hs))
  next hstate => exact hlate (by simp [hstate])
  next hstate => exact hlate (by simp [hstate])
  all_goals exact hs

theorem queuesSound_sweepVisit (t : Tables) {s : State} (hs : QueuesSound s) : QueuesSound (sweepVisit t s) := by
  refine queuesSound_of_ob_eq (endSweepIfDone_keeps _).2.2.2.1 ?_
  refine queuesSound_of_ob_eq (State.setCsu_ob _ _) ?_
  split
  next h =>
    exact queuesSound_requestPass (queuesSound_reclaimAdvance t
      (queuesSound_of_noneWaiting (entriesKept_cancelled h.1 _).waiting hs))
  next => exact hs

theorem recordSlotWord_waiting (k : Fin 64) (w : Fin 6) (v : Word) (s : State) :
    EntriesKept s (recordSlotWord k w v s) := .putEntry Iff.rfl fun _ ho => ho

theorem queuesSound_snoopTaken (t : Tables) (x : SnoopTarget) (v : Word) {s : State} (hs : QueuesSound s) :
    QueuesSound (snoopTaken t x v s) := by
  cases x with
  | slotWord k w => exact queuesSound_of_noneWaiting (recordSlotWord_waiting k w v s).waiting hs
  | submitWord =>
    simp only [snoopTaken, submitAcknowledged]
    split
    next => exact hs
    next =>
      exact queuesSound_requestPass (queuesSound_reclaimAdvance t
        (queuesSound_admitFrom t _ _ (queuesSound_of_ob_eq (s := s) rfl hs)))
  | takeWord =>
    simp only [snoopTaken, takeAcknowledged]
    split
    next => exact hs
    next =>
      exact queuesSound_requestPass (queuesSound_reclaimAdvance t
        (queuesSound_of_noneWaiting (entriesKept_takePositions t _ _ _).waiting (queuesSound_of_ob_eq (s := s) rfl hs)))
  | reportWord h w => exact queuesSound_of_ob_eq (by simp [snoopTaken]) hs
  | sequenceWord h => exact queuesSound_of_ob_eq (by simp [snoopTaken]) hs

/-- With every entry in its RESETN condition no order waits. -/
theorem queuesSound_of_ob_reset {s : State} (h : s.ob = Tab.all Entry.reset) : QueuesSound s := by
  intro p
  have hnone : waitingCount s p = 0 := by
    simp [waitingCount, h, waitingOrder, Entry.reset]
  omega

theorem queuesSound_move {B : Prop} {s s' : State} (h : Move B s s') (hs : QueuesSound s) : QueuesSound s' := by
  cases h with
  | inert hsame _ => exact queuesSound_of_ob_eq hsame.ob hs
  | reset q => exact queuesSound_of_ob_reset rfl
  | decoded c o _ => exact queuesSound_of_ob_eq (by simp) hs
  | snooped u x e t _ _ => exact queuesSound_snoopTaken t x _ (queuesSound_of_ob_eq (by simp) hs)
  | cancelled k t _ => exact queuesSound_cancelSlot t k hs
  | clockSet tod _ => exact queuesSound_of_ob_eq (by simp) hs
  | sweepStarted t kind _ => exact queuesSound_of_noneWaiting (entriesKept_startSweep t kind s).waiting hs
  | lockoutCleared t _ _ => exact queuesSound_of_ob_eq (by simp) hs
  | swapped new a b _ => exact queuesSound_of_ob_reset rfl
  | capJudged => exact queuesSound_of_ob_eq (by simp) hs
  | boundary _ => exact queuesSound_of_ob_eq (by simp) hs
  | edge _ _ => exact queuesSound_of_ob_eq rfl hs
  | confirmTaken p => exact queuesSound_of_ob_eq (by simp) hs
  | runEndTaken p => exact queuesSound_of_ob_eq (by simp) hs
  | guardTaken g => exact queuesSound_of_ob_eq (by simp) hs
  | passTaken t _ => exact queuesSound_releasePass t hs
  | visited t _ => exact queuesSound_sweepVisit t hs

/-- Settles O57: only admission makes an order WAITING, and its last check finds fewer than two of the pump's so. -/
theorem stepKeepsQueuesWithinTwo : Obligations.StepKeepsQueuesWithinTwo := fun _ _ hs hstep =>
  step_keeps (fun _ _ => queuesSound_move) hstep hs

end Sys2Proof.Machine

/-! PROOFS. The ring (1.5): which slots are FREE after admissions and reclaim, and the statement that every step keeps the
slots in agreement with reclaim and submit (R5, R11). -/

namespace Sys2Proof.Machine

open Safety

/-! ### The slots in [reclaim, submit) -/

/-- At most N indexes are submitted, and exactly the slots outside [reclaim, submit) are FREE. -/
structure RingOpen (t : Tables) (s : State) : Prop where
  bound : dist s.rt.reclaim s.rt.submit ≤ t.map.ringSize.slots
  free : ∀ d, d < t.map.ringSize.slots →
    ((s.ob.at (slotOf t.map.ringSize (indexAfter s.rt.reclaim d))).state = .free
      ↔ dist s.rt.reclaim s.rt.submit ≤ d)

/-- Reclaim stands at an unfinished order or at submit (R11). -/
def FrontUnfinished (t : Tables) (s : State) : Prop :=
  s.rt.reclaim ≠ s.rt.submit → finished (s.ob.at (slotOf t.map.ringSize s.rt.reclaim)).state = false

theorem slotsSound_iff {s : State} {t : Tables} (ht : s.tables = some t) : SlotsSound s ↔
    RingOpen t s ∧ FrontUnfinished t s ∧ ∀ v, snoopedValue .submitWord s = some v → legalSubmit t s v = true := by
  simp only [SlotsSound, ht]
  exact ⟨fun ⟨h1, h2, h3, h4⟩ => ⟨⟨h1, h2⟩, h3, h4⟩, fun ⟨⟨h1, h2⟩, h3, h4⟩ => ⟨h1, h2, h3, h4⟩⟩

theorem slotsSound_iff_none {s : State} (ht : s.tables = none) : SlotsSound s ↔ s.ob = Tab.all Entry.reset := by
  simp only [SlotsSound, ht]

section
variable {t : Tables} {s s' : State}

theorem RingOpen.of_kept (h : EntriesKept s s') (hs : RingOpen t s) : RingOpen t s' := by
  obtain ⟨hbound, hfree⟩ := hs
  refine ⟨by rwa [h.reclaim, h.submit], fun d hd => ?_⟩
  rw [h.free, h.reclaim, h.submit]
  exact hfree d hd

theorem FrontUnfinished.of_kept (h : EntriesKept s s') (hnone : NoneFinished s s') (hs : FrontUnfinished t s) :
    FrontUnfinished t s' := by
  intro hne
  rw [h.reclaim, h.submit] at hne
  rw [h.reclaim]
  exact Bool.eq_false_iff.mpr fun hf => Bool.eq_false_iff.mp (hs hne) (hnone _ hf)

end

/-! ### Reclaim (R11) -/

/-- One finished slot freed and passed. -/
theorem RingOpen.reclaimed {t : Tables} {s : State} (hs : RingOpen t s) (hne : s.rt.reclaim ≠ s.rt.submit) :
    RingOpen t (putEntry (slotOf t.map.ringSize s.rt.reclaim) Entry.reset
      (s.setRt { s.rt with reclaim := s.rt.reclaim + 1 })) := by
  obtain ⟨hbound, hfree⟩ := hs
  have hsucc := dist_succ_left hne
  have hpos := t.map.ringSize.slots_pos
  refine ⟨?_, fun d hd => ?_⟩
  · simp only [putEntry_keeps, State.setRt_rt]
    omega
  · simp only [putEntry_keeps, putEntry_ob, State.setRt_rt, State.setRt_ob, indexAfter_succ]
    by_cases hlast : d + 1 = t.map.ringSize.slots
    · have hslot : slotOf t.map.ringSize (indexAfter s.rt.reclaim (d + 1)) = slotOf t.map.ringSize s.rt.reclaim := by
        apply Fin.ext
        rw [slotOf_indexAfter_val, slotOf_val, hlast, Nat.add_mod_right]
      rw [hslot, Tab.at_put_same]
      simp only [Entry.reset, true_iff]
      omega
    · have hslot : slotOf t.map.ringSize (indexAfter s.rt.reclaim (d + 1)) ≠ slotOf t.map.ringSize s.rt.reclaim := by
        intro h
        rw [← indexAfter_zero s.rt.reclaim, indexAfter_indexAfter] at h
        have := slotOf_indexAfter_inj (by omega) hpos h
        omega
      rw [Tab.at_put_other _ _ hslot, hfree (d + 1) (by omega)]
      omega

/-- Enough rounds of reclaim come to an unfinished order or to submit; submit stands, and reclaim only rises. -/
theorem RingOpen.reclaimRounds {t : Tables} {n : Nat} {s : State} (hs : RingOpen t s)
    (hn : dist s.rt.reclaim s.rt.submit ≤ n) :
    RingOpen t (reclaimRounds t n s) ∧ FrontUnfinished t (reclaimRounds t n s)
      ∧ (reclaimRounds t n s).rt.submit = s.rt.submit
      ∧ dist (reclaimRounds t n s).rt.reclaim s.rt.submit ≤ dist s.rt.reclaim s.rt.submit := by
  induction n generalizing s with
  | zero =>
    have heq : s.rt.reclaim = s.rt.submit := dist_eq_zero_iff.mp (Nat.le_zero.mp hn)
    exact ⟨hs, fun hne => absurd heq hne, rfl, Nat.le_refl _⟩
  | succ n ih =>
    simp only [Machine.reclaimRounds]
    split
    next h =>
      have hsucc := dist_succ_left h.1
      obtain ⟨hopen, hfront, hsubmit, hle⟩ := ih (hs.reclaimed h.1) (by
        simp only [putEntry_keeps, State.setRt_rt]; omega)
      simp only [putEntry_keeps, State.setRt_rt] at hsubmit hle
      exact ⟨hopen, hfront, hsubmit, by omega⟩
    next h =>
      refine ⟨hs, fun hne => ?_, rfl, Nat.le_refl _⟩
      exact Bool.eq_false_iff.mpr fun hf => h ⟨hne, hf⟩

theorem RingOpen.reclaimAdvance {t : Tables} {s : State} (hs : RingOpen t s) :
    RingOpen t (reclaimAdvance t s) ∧ FrontUnfinished t (reclaimAdvance t s)
      ∧ (reclaimAdvance t s).rt.submit = s.rt.submit
      ∧ dist (reclaimAdvance t s).rt.reclaim s.rt.submit ≤ dist s.rt.reclaim s.rt.submit :=
  hs.reclaimRounds (hs.bound.trans t.map.ringSize.slots_le)

/-! ### Index writes legal at their decode (R5, R8) -/

/-- A snooped write of value v to an index word is a legal advance. -/
def SnoopLegal (t : Tables) (s : State) (v : Word) : SnoopTarget → Prop
  | .submitWord => legalSubmit t s v = true
  | .takeWord => legalTake s v = true
  | .slotWord _ _ => True
  | .reportWord _ _ => True
  | .sequenceWord _ => True

section
variable {t : Tables} {s : State} {c : Cycle} {x : SnoopTarget}

theorem decodeImage_not_snoop : decodeImage s c ≠ .memory (.snoop x) := by
  simp only [decodeImage, refuseProtect]
  repeat' split
  all_goals nofun

theorem decodeStatus_not_snoop (w : Nat) : decodeStatus s c w ≠ .memory (.snoop x) := by
  simp only [decodeStatus, refuseProtect]
  repeat' split
  all_goals nofun

theorem snoopLegal_of_decodeRing {off : Nat} (h : decodeRing t s c off = .memory (.snoop x)) :
    SnoopLegal t s c.data x := by
  simp only [decodeRing, decodeSlotWrite, decodeSlotRead, decodeLinkRead, refuseProtect] at h
  repeat' split at h
  all_goals cases h
  trivial

theorem snoopLegal_of_decodeSubmit (h : decodeSubmit t s c = .memory (.snoop x)) : SnoopLegal t s c.data x := by
  simp only [decodeSubmit, refuseIndex] at h
  repeat' split at h
  all_goals cases h
  assumption

theorem snoopLegal_of_decodeTake (h : decodeTake s c = .memory (.snoop x)) : SnoopLegal t s c.data x := by
  simp only [decodeTake, refuseIndex] at h
  repeat' split at h
  all_goals cases h
  assumption

theorem snoopLegal_of_decodeReport {off : Nat} (h : decodeReport c off = .memory (.snoop x)) :
    SnoopLegal t s c.data x := by
  simp only [decodeReport, refuseProtect] at h
  repeat' split at h
  all_goals cases h <;> trivial

/-- An index write is snooped only where it is a legal advance. -/
theorem snoopLegal_of_decoded (ht : s.tables = some t) (h : decodeCycle s c = .memory (.snoop x)) :
    SnoopLegal t s c.data x := by
  simp only [decodeCycle, ht] at h
  split at h
  next => exact absurd h decodeImage_not_snoop
  next =>
    split at h
    next => exact absurd h (decodeStatus_not_snoop _)
    next =>
      simp only [decodeMapped] at h
      split at h
      next => exact snoopLegal_of_decodeRing h
      next =>
        split at h
        next => exact snoopLegal_of_decodeSubmit h
        next =>
          split at h
          next => exact snoopLegal_of_decodeTake h
          next =>
            split at h
            next => exact snoopLegal_of_decodeReport h
            next => cases h

end

/-- The write in flight is the one that stands on the bus. -/
theorem snoopedValue_of_masterInFlight {s : State} {u : UpCycle} {x : SnoopTarget}
    (h : masterInFlight s = some (u, .snoop x)) : snoopedValue x s = some u.cycle.data := by
  unfold masterInFlight at h
  split at h
  next m u' hm hu =>
    split at h
    next o hstage ho =>
      cases h
      simp [snoopedValue, hu, ho]
    all_goals cases h
  next => cases h

/-- A cycle just decoded brings its own write to the bus. -/
theorem snoopedValue_decoded {s : State} {c : Cycle} {o : MemOutcome} {x : SnoopTarget} {v : Word}
    (h : snoopedValue x (setUpstream (some { cycle := c, stage := .waiting o, abandoned := false }) .idle s) = some v) :
    o = .snoop x ∧ c.data = v := by
  simpa [snoopedValue] using h

/-! ### What the moves leave of the ring -/

/-- The ring in order again, with the same tables and submit and reclaim not fallen: whatever write was legal is so
still. -/
structure RingMoved (t : Tables) (s s' : State) : Prop where
  ringOpen : RingOpen t s'
  front : FrontUnfinished t s'
  submit : s'.rt.submit = s.rt.submit
  reclaim : dist s'.rt.reclaim s.rt.submit ≤ dist s.rt.reclaim s.rt.submit

section
variable {t : Tables} {s s' : State}

theorem RingMoved.of_kept (h : EntriesKept s s') (hnone : NoneFinished s s') (hopen : RingOpen t s)
    (hfront : FrontUnfinished t s) : RingMoved t s s' :=
  ⟨hopen.of_kept h, hfront.of_kept h hnone, h.submit, by rw [h.reclaim]⟩

theorem RingMoved.of_reclaimAdvance (h : EntriesKept s s') (hopen : RingOpen t s) :
    RingMoved t s (reclaimAdvance t s') := by
  obtain ⟨hopen', hfront, hsubmit, hle⟩ := (hopen.of_kept h).reclaimAdvance
  rw [h.submit] at hsubmit hle
  rw [h.reclaim] at hle
  exact ⟨hopen', hfront, hsubmit, hle⟩

/-- The ring reads of the state its indexes and entries alone. -/
theorem RingMoved.congr {s'' : State} (h : RingMoved t s s') (hob : s''.ob = s'.ob) (hrt : s''.rt = s'.rt) :
    RingMoved t s s'' := by
  obtain ⟨⟨hbound, hfree⟩, hfront, hsubmit, hle⟩ := h
  refine ⟨⟨by rwa [hrt], fun d hd => ?_⟩, ?_, by rwa [hrt], by rwa [hrt]⟩
  · rw [hob, hrt]
    exact hfree d hd
  · rw [FrontUnfinished, hob, hrt]
    exact hfront

theorem RingMoved.requestPass (h : RingMoved t s s') : RingMoved t s (requestPass s') := h.congr (by simp) (by simp)

theorem legalSubmit_of_moved (h : RingMoved t s s') {v : Word} (hv : legalSubmit t s v = true) :
    legalSubmit t s' v = true := by
  have hle := h.reclaim
  simp only [legalSubmit, decide_eq_true_eq, h.submit] at hv ⊢
  omega

/-- The ring moved, and no write to the submit word is on the bus but one that was there. -/
theorem slotsSound_of_moved (ht : s.tables = some t) (ht' : s'.tables = s.tables) (h : RingMoved t s s')
    (hsnoop : NoNewSnoop s s') (hs : SlotsSound s) : SlotsSound s' := by
  obtain ⟨-, -, hlegal⟩ := (slotsSound_iff ht).mp hs
  exact (slotsSound_iff (ht'.trans ht)).mpr
    ⟨h.ringOpen, h.front, fun v hv => legalSubmit_of_moved h (hlegal v (hsnoop _ v hv))⟩

theorem NoNewSnoop.of_bpu_eq (h : s'.bpu = s.bpu) : NoNewSnoop s s' := fun x v hv => by
  simpa only [snoopedValue, h] using hv

theorem slotsSound_of_eq (ht : s'.tables = s.tables) (hob : s'.ob = s.ob) (hrt : s'.rt = s.rt)
    (hsnoop : NoNewSnoop s s') (hs : SlotsSound s) : SlotsSound s' := by
  cases htables : s.tables with
  | none => exact (slotsSound_iff_none (ht.trans htables)).mpr (hob.trans ((slotsSound_iff_none htables).mp hs))
  | some t =>
    obtain ⟨hopen, hfront, -⟩ := (slotsSound_iff htables).mp hs
    exact slotsSound_of_moved htables ht (.of_kept (.of_eq hob hrt) (.of_ob_eq hob) hopen hfront) hsnoop hs

end

/-! ### Admission (R34) -/

/-- Admission fills the slots of its indexes, and no other. -/
theorem admitFrom_free (t : Tables) (n : Nat) (i : Word) (s : State) (k : Fin 64) :
    ((admitFrom t n i s).ob.at k).state = .free ↔
      (s.ob.at k).state = .free ∧ ∀ d, d < n → slotOf t.map.ringSize (indexAfter i d) ≠ k := by
  induction n generalizing s with
  | zero => simp [admitFrom]
  | succ n ih =>
    have hlast : ((admitIndex t (indexAfter i n) (admitFrom t n i s)).ob.at k).state = .free ↔
        ((admitFrom t n i s).ob.at k).state = .free ∧ slotOf t.map.ringSize (indexAfter i n) ≠ k := by
      rcases admitIndex_ob t (indexAfter i n) (admitFrom t n i s) with ⟨o, -, hob⟩ | ⟨r, -, hob⟩ <;>
        rw [hob, Tab.at_put] <;> split
      case inl.isTrue h => simp [h]
      case inl.isFalse h => simp [Ne.symm h]
      case inr.isTrue h => simp [h]
      case inr.isFalse h => simp [Ne.symm h]
    rw [admitFrom_succ, hlast, ih, and_assoc]
    refine and_congr_right fun _ => ?_
    simp only [Nat.lt_succ_iff_lt_or_eq]
    exact ⟨fun ⟨h, h'⟩ d hd => hd.elim (h d) (fun e => e ▸ h'), fun h => ⟨fun d hd => h d (.inl hd), h n (.inr rfl)⟩⟩

/-- A legal submit write leaves exactly the slots of [reclaim, v) not FREE. -/
theorem RingOpen.submitted {t : Tables} {s : State} {v : Word} (hs : RingOpen t s) (hv : legalSubmit t s v = true) :
    RingOpen t (admitFrom t (dist s.rt.submit v) s.rt.submit (s.setRt { s.rt with submit := v })) := by
  obtain ⟨hbound, hfree⟩ := hs
  have hle := t.map.ringSize.slots_le
  simp only [legalSubmit, decide_eq_true_eq] at hv
  have hdist : dist s.rt.reclaim v = dist s.rt.reclaim s.rt.submit + dist s.rt.submit v := dist_add (by omega)
  refine ⟨?_, fun d hd => ?_⟩
  · simp only [admitFrom_keeps, State.setRt_rt, hdist]
    omega
  · simp only [admitFrom_keeps, State.setRt_rt, admitFrom_free, State.setRt_ob, hdist, hfree d hd]
    have hsubmit := indexAfter_dist s.rt.reclaim s.rt.submit
    constructor
    · rintro ⟨hd', hne⟩
      by_contra hlt
      refine hne (d - dist s.rt.reclaim s.rt.submit) (by omega) ?_
      rw [← hsubmit, indexAfter_indexAfter, dist_indexAfter _ (by omega), Nat.add_sub_cancel' hd']
    · intro hd'
      refine ⟨by omega, fun c hc hslot => ?_⟩
      rw [← hsubmit, indexAfter_indexAfter] at hslot
      have := slotOf_indexAfter_inj (by omega) hd hslot
      omega

/-! ### The slots stay sound -/

section
variable {t : Tables} {s : State}

theorem ringMoved_releasePass (hopen : RingOpen t s) (hfront : FrontUnfinished t s) :
    RingMoved t s (releasePass t s) := by
  have hkept := (entriesKept_expireLate s).trans (entriesKept_releaseRounds t s.ilu.nextSeq 73 (expireLate s))
  simp only [releasePass]
  split
  next => exact .of_reclaimAdvance hkept hopen
  next h =>
    obtain ⟨hexpire, hmoved⟩ := Bool.or_eq_false_iff.mp (Bool.eq_false_iff.mpr h)
    exact .of_kept hkept ((noneFinished_expireLate hexpire).trans (noneFinished_releaseRounds hmoved)) hopen hfront

theorem ringMoved_cancelSlot (k : Fin 64) (hopen : RingOpen t s) (hfront : FrontUnfinished t s) :
    RingMoved t s (cancelSlot t k s) := by
  have hlate : RingMoved t s (putEntry k { s.ob.at k with late := true } s) := by
    refine .of_kept (.putEntry Iff.rfl fun _ ho => ho) (fun j hj => ?_) hopen hfront
    rw [putEntry_ob, Tab.at_put] at hj
    split at hj
    next h => rwa [h]
    next => exact hj
  have hsame : RingMoved t s s := .of_kept .refl (.of_ob_eq rfl) hopen hfront
  simp only [cancelSlot]
  split
  next hstate =>
    exact (RingMoved.of_reclaimAdvance (entriesKept_cancelled hstate _) hopen).requestPass
  next => exact hlate.congr (by simp) (by simp)
  next => exact hlate.congr (by simp) (by simp)
  all_goals exact hsame

theorem ringMoved_sweepVisit (hopen : RingOpen t s) (hfront : FrontUnfinished t s) :
    RingMoved t s (sweepVisit t s) := by
  have hended (y : State) (h : RingMoved t s y) (x : Csu) : RingMoved t s (endSweepIfDone (y.setCsu x)) :=
    h.congr (by simp) (by simp)
  refine hended _ ?_ _
  split
  next h => exact (RingMoved.of_reclaimAdvance (entriesKept_cancelled h.1 _) hopen).requestPass
  next => exact .of_kept .refl (.of_ob_eq rfl) hopen hfront

theorem ringMoved_startSweep (kind : SweepKind) (hopen : RingOpen t s) (hfront : FrontUnfinished t s) :
    RingMoved t s (startSweep t kind s) := by
  refine .of_kept (entriesKept_startSweep t kind s) (fun k hk => ?_) hopen hfront
  rw [startSweep_ob] at hk
  split at hk
  next => exact hk
  next => exact hk

theorem ringMoved_recordSlotWord (k : Fin 64) (w : Fin 6) (v : Word) (hopen : RingOpen t s)
    (hfront : FrontUnfinished t s) : RingMoved t s (recordSlotWord k w v s) := by
  refine .of_kept (recordSlotWord_waiting k w v s) (fun j hj => ?_) hopen hfront
  rw [recordSlotWord, putEntry_ob, Tab.at_put] at hj
  split at hj
  next h => rwa [h]
  next => exact hj

theorem ringMoved_takeAcknowledged (v : Word) (hopen : RingOpen t s) (hfront : FrontUnfinished t s) :
    RingMoved t s (takeAcknowledged t v s) := by
  simp only [takeAcknowledged]
  split
  next => exact .of_kept .refl (.of_ob_eq rfl) hopen hfront
  next =>
    have htake : EntriesKept s (s.setRt { s.rt with take := v }) := ⟨fun _ => .rfl, fun _ _ h => h, rfl, rfl⟩
    exact (RingMoved.of_reclaimAdvance (htake.trans (entriesKept_takePositions t _ _ _)) hopen).requestPass

/-- A snooped write taken leaves the ring in order; a submit write, where it is legal. -/
theorem ring_snoopTaken {x : SnoopTarget} {v : Word} (hlegal : x = .submitWord → legalSubmit t s v = true)
    (hopen : RingOpen t s) (hfront : FrontUnfinished t s) :
    RingOpen t (snoopTaken t x v s) ∧ FrontUnfinished t (snoopTaken t x v s) := by
  have hmoved {y : State} (h : RingMoved t s y) : RingOpen t y ∧ FrontUnfinished t y := ⟨h.ringOpen, h.front⟩
  cases x with
  | slotWord k w => exact hmoved (ringMoved_recordSlotWord k w v hopen hfront)
  | takeWord => exact hmoved (ringMoved_takeAcknowledged v hopen hfront)
  | reportWord h w =>
    exact hmoved (.of_kept (.of_eq (by simp [snoopTaken]) (by simp [snoopTaken])) (.of_ob_eq (by simp [snoopTaken]))
      hopen hfront)
  | sequenceWord h =>
    exact hmoved (.of_kept (.of_eq (by simp [snoopTaken]) (by simp [snoopTaken])) (.of_ob_eq (by simp [snoopTaken]))
      hopen hfront)
  | submitWord =>
    simp only [snoopTaken, submitAcknowledged]
    split
    next => exact ⟨hopen, hfront⟩
    next =>
      obtain ⟨hopen', hfront', -, -⟩ := (hopen.submitted (hlegal rfl)).reclaimAdvance
      exact ⟨⟨hopen'.bound, hopen'.free⟩, hfront'⟩

end

theorem slotsSound_swapTables (new : Tables) (a b : Word) {s : State}
    (hidle : ∀ x, snoopedValue x s = none) : SlotsSound (swapTables new a b s) := by
  have hrt : (swapTables new a b s).rt = swapRt a b := rfl
  have hob : (swapTables new a b s).ob = Tab.all Entry.reset := rfl
  refine (slotsSound_iff rfl).mpr ⟨⟨?_, fun d _ => ?_⟩, fun hne => ?_, fun v hv => ?_⟩
  · simp [hrt, swapRt, dist_self]
  · simp [hrt, hob, swapRt, dist_self, Entry.reset]
  · exact absurd rfl hne
  · have hnone : snoopedValue .submitWord (swapTables new a b s) = none := hidle _
    rw [hnone] at hv
    cases hv

theorem slotsSound_decoded {s : State} {c : Cycle} {o : MemOutcome} (hd : decodeCycle s c = .memory o)
    (hs : SlotsSound s) :
    SlotsSound (setUpstream (some { cycle := c, stage := .waiting o, abandoned := false }) .idle s) := by
  cases ht : s.tables with
  | none => exact (slotsSound_iff_none (by simp [ht])).mpr ((slotsSound_iff_none ht).mp hs)
  | some t =>
    obtain ⟨hopen, hfront, -⟩ := (slotsSound_iff ht).mp hs
    refine (slotsSound_iff (t := t) (by simp [ht])).mpr ⟨⟨hopen.bound, hopen.free⟩, hfront, fun v hv => ?_⟩
    obtain ⟨rfl, rfl⟩ := snoopedValue_decoded hv
    exact snoopLegal_of_decoded ht hd

theorem slotsSound_snooped {s : State} {u : UpCycle} {x : SnoopTarget} {t : Tables} (e : UpEnding)
    (hflight : masterInFlight s = some (u, .snoop x)) (ht : s.tables = some t) (hs : SlotsSound s) :
    SlotsSound (snoopTaken t x u.cycle.data (endMaster u e s)) := by
  obtain ⟨hopen, hfront, hlegal⟩ := (slotsSound_iff ht).mp hs
  have hring := ring_snoopTaken (t := t) (s := endMaster u e s) (x := x) (v := u.cycle.data)
    (fun hx => hlegal _ (snoopedValue_of_masterInFlight (hx ▸ hflight))) ⟨hopen.bound, hopen.free⟩ hfront
  refine (slotsSound_iff (t := t) (by simp [ht])).mpr ⟨hring.1, hring.2, fun v hv => ?_⟩
  have hnone : (snoopTaken t x u.cycle.data (endMaster u e s)).bpu.upstream = none := by
    rw [(snoopTaken_keeps _ _ _ _).1]; rfl
  simp only [snoopedValue, hnone, reduceCtorEq] at hv

theorem slotsSound_move {B : Prop} (hB : B) {s s' : State} (h : Move B s s') (hs : SlotsSound s) : SlotsSound s' := by
  have hmoved {t : Tables} {y : State} (ht : s.tables = some t) (ht' : y.tables = s.tables) (hbpu : y.bpu = s.bpu)
      (hring : RingOpen t s → FrontUnfinished t s → RingMoved t s y) : SlotsSound y := by
    obtain ⟨hopen, hfront, -⟩ := (slotsSound_iff ht).mp hs
    exact slotsSound_of_moved ht ht' (hring hopen hfront) (.of_bpu_eq hbpu) hs
  cases h with
  | inert hsame hsnoop => exact slotsSound_of_eq hsame.tables hsame.ob hsame.rt hsnoop hs
  | reset q => exact (slotsSound_iff_none rfl).mpr rfl
  | decoded c o hd => exact slotsSound_decoded hd hs
  | snooped u x e t hflight ht => exact slotsSound_snooped e hflight ht hs
  | cancelled k t ht => exact hmoved ht (by simp) (by simp) (ringMoved_cancelSlot k)
  | clockSet tod _ => exact slotsSound_of_eq (by simp) (by simp) (by simp) (.of_bpu_eq (by simp)) hs
  | sweepStarted t kind ht => exact hmoved ht (by simp) (by simp) (ringMoved_startSweep kind)
  | lockoutCleared t _ _ => exact slotsSound_of_eq (by simp) (by simp) (by simp) (.of_bpu_eq (by simp)) hs
  | swapped new a b hidle => exact slotsSound_swapTables new a b (hidle hB)
  | capJudged => exact slotsSound_of_eq (by simp) (by simp) (by simp) (.of_bpu_eq (by simp)) hs
  | boundary _ => exact slotsSound_of_eq (by simp) (by simp) (by simp) (.of_bpu_eq (by simp)) hs
  | edge _ _ => exact slotsSound_of_eq rfl rfl rfl (.of_bpu_eq rfl) hs
  | confirmTaken p => exact slotsSound_of_eq (by simp) (by simp) (by simp) (.of_bpu_eq (by simp)) hs
  | runEndTaken p => exact slotsSound_of_eq (by simp) (by simp) (by simp) (.of_bpu_eq (by simp)) hs
  | guardTaken g => exact slotsSound_of_eq (by simp) (by simp) (by simp) (.of_bpu_eq (by simp)) hs
  | passTaken t ht => exact hmoved ht (by simp) (by simp) ringMoved_releasePass
  | visited t ht => exact hmoved ht (by simp) (by simp) ringMoved_sweepVisit

/-- Settles O60: admission fills the slots up to submit, reclaim frees those it passes, and no other part of a step frees
a slot, fills one, or leaves a finished order at reclaim. -/
theorem stepKeepsSlots : Obligations.StepKeepsSlots := fun _ _ hbus hs hstep =>
  step_keeps (fun _ _ => slotsSound_move hbus) hstep hs

end Sys2Proof.Machine

/-! PROOFS. The internal store (chapter 6): what raising, owing, releasing and freeing keep of it, and the statement that
every step keeps one stop for one pump (R115, R122). -/

namespace Sys2Proof.Machine

open Safety

section
variable {s s' : State}

theorem storeSound_of_ilu_eq (h : s'.ilu = s.ilu) (hs : StoreSound s) : StoreSound s' := by
  simpa only [StoreSound, stopOwed, h] using hs

theorem storeSound_requestPass (hs : StoreSound s) : StoreSound (requestPass s) := storeSound_of_ilu_eq (by simp) hs

/-- Entries and flags fewer than in a sound store, under the same raise sequence. -/
theorem storeSound_of_fewer (hstore : ∀ e o, storeOrder (s'.ilu.store.at e) = some o → storeOrder (s.ilu.store.at e) = some o)
    (hseq : s'.ilu.nextSeq = s.ilu.nextSeq) (howed : ∀ p, stopOwed s p = false → stopOwed s' p = false)
    (hs : StoreSound s) : StoreSound s' := by
  obtain ⟨hone, hentry⟩ := hs
  refine ⟨fun e f o q he hf => hone e f o q (hstore e o he) (hstore f q hf), fun e o he => ?_⟩
  obtain ⟨hlt, hkind, hclear⟩ := hentry e o (hstore e o he)
  exact ⟨hseq ▸ hlt, hkind, howed _ hclear⟩

theorem stopOwed_clearOwed (p q : Fin 32) (s : State) : stopOwed (clearOwed p s) q = (stopOwed s q && !decide (q = p)) := by
  simp only [stopOwed, clearOwed, State.setIlu_ilu, Tab.at_put]
  split <;> simp_all

theorem storeSound_clearOwed (p : Fin 32) (hs : StoreSound s) : StoreSound (clearOwed p s) :=
  storeSound_of_fewer (s := s) (fun _ _ h => h) rfl (fun q hq => by simp [stopOwed_clearOwed, hq]) hs

theorem storeSound_putPump (p : Fin 32) (r : PumpRec) (hs : StoreSound s) : StoreSound (putPump p r s) := by
  simp only [putPump]
  split
  next => exact storeSound_clearOwed p (storeSound_of_ilu_eq (s := s) rfl hs)
  next => exact storeSound_of_ilu_eq (s := s) rfl hs

/-! ### Raising, owing, freeing, releasing -/

theorem not_holdsEntry {p : Fin 32} (h : holdsEntry s p = false) {e : Fin 8} {o : InternalOrder}
    (ho : storeOrder (s.ilu.store.at e) = some o) : o.pump ≠ p := fun hp =>
  Bool.eq_false_iff.mp h (holdsEntry_iff.mpr ⟨e, o, ho, hp⟩)

/-- A pump whose stop is owed holds no entry (R122). -/
theorem not_holdsEntry_of_owed {p : Fin 32} (hs : StoreSound s) (h : stopOwed s p = true) : holdsEntry s p = false := by
  refine Bool.eq_false_iff.mpr fun hheld => ?_
  obtain ⟨e, o, ho, rfl⟩ := holdsEntry_iff.mp hheld
  rw [(hs.2 e o ho).2.2] at h
  cases h

theorem storeSound_raiseEntry {e : Fin 8} {p : Fin 32} (hp : holdsEntry s p = false) (c : Cause) (hs : StoreSound s) :
    StoreSound (raiseEntry e p c s) := by
  obtain ⟨hone, hentry⟩ := hs
  have hat (f : Fin 8) (o : InternalOrder) (h : storeOrder ((raiseEntry e p c s).ilu.store.at f) = some o) :
      (f = e ∧ o.pump = p ∧ o.seq = s.ilu.nextSeq ∧ o.kind = kindOf o.cause)
        ∨ (f ≠ e ∧ storeOrder (s.ilu.store.at f) = some o) := by
    rw [raiseEntry_ilu] at h
    simp only [Tab.at_put] at h
    split at h
    next hf => cases h; exact .inl ⟨hf, rfl, rfl, rfl⟩
    next hf => exact .inr ⟨hf, h⟩
  have hlt (f : Fin 8) (o : InternalOrder) (h : storeOrder (s.ilu.store.at f) = some o) :
      o.pump ≠ p ∧ o.seq < s.ilu.nextSeq := ⟨not_holdsEntry hp h, (hentry f o h).1⟩
  constructor
  · intro f g o q ho hq hsame
    rcases hat f o ho with ⟨rfl, hop, hos, -⟩ | ⟨-, hof⟩ <;> rcases hat g q hq with ⟨rfl, hqp, hqs, -⟩ | ⟨-, hqg⟩
    · rfl
    · obtain ⟨hne, hlt⟩ := hlt g q hqg
      exact absurd hsame (by rw [hop, hos]; exact not_or.mpr ⟨Ne.symm hne, (Nat.ne_of_lt hlt).symm⟩)
    · obtain ⟨hne, hlt⟩ := hlt f o hof
      exact absurd hsame (by rw [hqp, hqs]; exact not_or.mpr ⟨hne, Nat.ne_of_lt hlt⟩)
    · exact hone f g o q hof hqg hsame
  · intro f o ho
    have howed (q : Fin 32) (hq : stopOwed s q = false ∨ q = p) : stopOwed (raiseEntry e p c s) q = false := by
      rw [stopOwed, raiseEntry_ilu]
      simp only [Tab.at_put]
      split
      next => rfl
      next h => exact hq.resolve_right h
    have hseq : (raiseEntry e p c s).ilu.nextSeq = s.ilu.nextSeq + 1 := by rw [raiseEntry_ilu]
    rw [hseq]
    rcases hat f o ho with ⟨-, hop, hos, hkind⟩ | ⟨-, hof⟩
    · exact ⟨by omega, hkind, howed _ (.inr hop)⟩
    · obtain ⟨hlt, hkind, hclear⟩ := hentry f o hof
      exact ⟨by omega, hkind, howed _ (.inl hclear)⟩

theorem storeSound_oweStop {p : Fin 32} (hp : holdsEntry s p = false) (c : Cause) (hs : StoreSound s) :
    StoreSound (oweStop p c s) := by
  obtain ⟨hone, hentry⟩ := hs
  rw [oweStop_eq]
  refine ⟨hone, fun e o ho => ?_⟩
  obtain ⟨hlt, hkind, hclear⟩ := hentry e o ho
  refine ⟨hlt, hkind, ?_⟩
  have hne := not_holdsEntry hp (e := e) ho
  simp only [stopOwed, State.setIlu_ilu, Tab.at_put_other _ _ hne]
  exact hclear

theorem storeSound_placeStop {p : Fin 32} (hp : holdsEntry s p = false) (c : Cause) (hs : StoreSound s) :
    StoreSound (placeStop p c s) := by
  simp only [placeStop]
  split
  next => exact storeSound_oweStop hp c hs
  next =>
    split
    next => exact storeSound_oweStop hp c hs
    next => exact storeSound_raiseEntry hp c hs

theorem not_holdsEntry_of_outstanding {p : Fin 32} (h : ¬ stopOutstanding s p = true) : holdsEntry s p = false := by
  simp only [stopOutstanding, Bool.or_eq_true, not_or] at h
  exact Bool.eq_false_iff.mpr h.1.1

theorem storeSound_evaluatePump (t : Tables) (p : Fin 32) (hs : StoreSound s) : StoreSound (evaluatePump t p s) := by
  simp only [evaluatePump]
  split
  next => exact hs
  next hout =>
    split
    next => exact hs
    next c _ => exact storeSound_placeStop (not_holdsEntry_of_outstanding hout) c hs

theorem storeSound_timedStop (p : Fin 32) (hs : StoreSound s) : StoreSound (timedStop p s) := by
  simp only [timedStop]
  split
  next => exact hs
  next hout => exact storeSound_placeStop (not_holdsEntry_of_outstanding hout) _ hs

/-- What a take-in makes of one set flag: a stop raised, or the flag cleared (R123). -/
theorem takeInFlag_cases (t : Tables) (e : Fin 8) (p : Fin 32) (c : Cause) (s : State) :
    (∃ d, takeInFlag t e p c s = raiseEntry e p d s) ∨ takeInFlag t e p c s = clearOwed p s := by
  cases c <;> simp only [takeInFlag]
  case timed => exact .inl ⟨_, rfl⟩
  all_goals
    split
    next d _ => exact .inl ⟨d, rfl⟩
    next => exact .inr rfl

theorem storeSound_takeInFlag (t : Tables) (e : Fin 8) {p : Fin 32} {c : Cause} (h : s.ilu.owed.at p = some c)
    (hs : StoreSound s) : StoreSound (takeInFlag t e p c s) := by
  have hp := not_holdsEntry_of_owed hs (p := p) (by simp [stopOwed, h])
  rcases takeInFlag_cases t e p c s with ⟨d, h⟩ | h <;> rw [h]
  · exact storeSound_raiseEntry hp d hs
  · exact storeSound_clearOwed p hs

theorem storeSound_takeIn (t : Tables) (hs : StoreSound s) : StoreSound (takeIn t s) := by
  have hrounds (n : Nat) {s : State} (hs : StoreSound s) : StoreSound (takeInRounds t n s) := by
    induction n generalizing s with
    | zero => exact hs
    | succ n ih =>
      simp only [takeInRounds]
      split
      next e p _ _ =>
        split
        next c hc => exact ih (storeSound_takeInFlag t e hc hs)
        next => exact hs
      next => exact hs
  simp only [takeIn]
  split
  next => exact storeSound_of_ilu_eq (by simp) (hrounds 32 hs)
  next => exact hs

theorem storeSound_freeStoreEntry (t : Tables) (e : Fin 8) (hs : StoreSound s) : StoreSound (freeStoreEntry t e s) := by
  refine storeSound_takeIn t (storeSound_of_fewer (s := s) (fun f o ho => ?_) rfl (fun _ h => h) hs)
  simp only [State.setIlu_ilu, Tab.at_put] at ho
  split at ho
  next => cases ho
  next => exact ho

theorem storeSound_releaseInternal (t : Tables) {e : Fin 8} {o : InternalOrder} (he : s.ilu.store.at e = .waiting o)
    (hs : StoreSound s) : StoreSound (releaseInternal t e o s) := by
  have hmarked : StoreSound (markEntryReleased e o (appendRelease (.internal e) s)) := by
    refine storeSound_of_fewer (s := s) (fun f q hq => ?_) rfl (fun _ h => h) hs
    simp only [markEntryReleased, State.setIlu_ilu, Tab.at_put] at hq
    split at hq
    next hf => cases hq; rw [hf, he]; rfl
    next => exact hq
  refine storeSound_of_ilu_eq (groupReleased_keeps _ _ _ _).2.2.2.2.2.2.1 ?_
  exact storeSound_putPump _ _ hmarked

theorem storeSound_releaseHost (t : Tables) (k : Fin 64) (o : Order) (hs : StoreSound s) :
    StoreSound (releaseHost t k o s) := by
  refine storeSound_of_ilu_eq (groupReleased_keeps _ _ _ _).2.2.2.2.2.2.1 ?_
  simp only [pumpReleased]
  split <;> exact storeSound_putPump _ _ (storeSound_of_ilu_eq (by simp) hs)

end

/-! ### Passes, dispatches and commits -/

section
variable {s : State}

theorem storeSound_foldl {α : Type} (f : State → α → State) (hf : ∀ s a, StoreSound s → StoreSound (f s a)) (l : List α)
    (hs : StoreSound s) : StoreSound (l.foldl f s) := by
  induction l generalizing s with
  | nil => exact hs
  | cons a l ih => exact ih (hf s a hs)

theorem mem_of_internalWinner {t : Tables} {seq0 : Nat} {e : Fin 8} {o : InternalOrder}
    (h : internalWinner t seq0 s = some (e, o)) : (e, o) ∈ internalCandidates t seq0 s :=
  List.mem_of_mem_head? h

theorem storeSound_releaseRound (t : Tables) (seq0 : Nat) (hs : StoreSound s) :
    StoreSound (releaseRound t seq0 s).state := by
  have hjudged : StoreSound (withdrawAll t seq0 s) :=
    storeSound_foldl _ (fun _ e h => storeSound_freeStoreEntry t e h) _ hs
  have hwritten : StoreSound (recordJudgements t (withdrawAll t seq0 s)) := storeSound_of_ilu_eq (by simp) hjudged
  rcases releaseRound_cases t seq0 s with ⟨e, o, hwin, h, -⟩ | ⟨-, k, o, -, h, -⟩ | ⟨-, -, h, -⟩ <;> rw [h]
  · obtain ⟨⟨hwaiting, -⟩, -⟩ := mem_internalCandidates.mp (mem_of_internalWinner hwin)
    exact storeSound_releaseInternal t (by simpa using hwaiting) hwritten
  · exact storeSound_releaseHost t k o hwritten
  · exact hwritten

theorem storeSound_releasePass (t : Tables) (hs : StoreSound s) : StoreSound (releasePass t s) := by
  have hrounds (n seq0 : Nat) {s : State} (hs : StoreSound s) : StoreSound (releaseRounds t seq0 n s).1 := by
    induction n generalizing s with
    | zero => exact hs
    | succ n ih =>
      simp only [releaseRounds]
      split
      next => exact ih (storeSound_releaseRound t seq0 hs)
      next => exact storeSound_releaseRound t seq0 hs
  have hpass := hrounds 73 s.ilu.nextSeq (storeSound_of_ilu_eq (s' := expireLate s) (by simp) hs)
  simp only [releasePass]
  split
  next => exact storeSound_of_ilu_eq (by simp) hpass
  next => exact hpass

theorem storeSound_dispatchPump (t : Tables) (p : Fin 32) (a : Action) (i : Word) (hs : StoreSound s) :
    StoreSound (dispatchPump t p a i s) := by
  have hpump : StoreSound (groupDispatched t p i (pumpDispatched t p a s)) := by
    refine storeSound_of_ilu_eq (groupDispatched_keeps _ _ _ _).2.2.2.2.2.2.1 ?_
    cases a <;> exact storeSound_putPump p _ hs
  have htaken {y : State} (h : StoreSound y) : StoreSound (takeInDispatched t p y) := by
    simp only [takeInDispatched]
    split
    next c e hc _ => exact storeSound_of_ilu_eq (by simp) (storeSound_takeInFlag t e hc h)
    next => exact h
  have hevaluated {y : State} (h : StoreSound y) :
      StoreSound (if (y.psu.pumps.at p).state = .lockout then evaluatePump t p y else y) := by
    split
    next => exact storeSound_evaluatePump t p h
    next => exact h
  cases a
  · exact hevaluated (htaken hpump)
  · exact hevaluated hpump

theorem storeSound_dispatchNotice (t : Tables) (i : Word) (a : Origin) (hs : StoreSound s) :
    StoreSound (dispatchNotice t i a s) := by
  cases a with
  | host k =>
    have hentry : StoreSound (entryDispatched k s) := storeSound_of_ilu_eq (by simp) hs
    simp only [dispatchNotice]
    split
    next => exact storeSound_dispatchPump t _ _ i hentry
    next => exact hentry
  | internal e =>
    simp only [dispatchNotice]
    split
    next => exact storeSound_dispatchPump t _ _ i (storeSound_freeStoreEntry t e hs)
    next => exact hs

theorem storeSound_takePositions (t : Tables) (n : Nat) (i : Word) (hs : StoreSound s) :
    StoreSound (takePositions t n i s) := by
  induction n generalizing i s with
  | zero => exact hs
  | succ n ih =>
    simp only [takePositions]
    split
    next => exact hs
    next => exact ih _ (storeSound_dispatchNotice t i _ (storeSound_of_ilu_eq (s := s) rfl hs))

theorem storeSound_offerCommit (t : Tables) (h : Fin 12) (p : Fin 32) (hs : StoreSound s) :
    StoreSound (offerCommit t h s p) := by
  refine storeSound_evaluatePump t p ?_
  split
  next => exact storeSound_of_ilu_eq (raiseFlagIf_keeps _ _ _).2.2.2.2.2.2.2.1 (storeSound_putPump p _ hs)
  next => exact hs

theorem storeSound_sequenceAcknowledged (t : Tables) (h : Fin 12) (q : Word) (hs : StoreSound s) :
    StoreSound (sequenceAcknowledged t h q s) := by
  simp only [sequenceAcknowledged]
  split
  next => exact storeSound_of_ilu_eq (by simp) hs
  next =>
    split
    next => exact storeSound_of_ilu_eq (by simp) hs
    next =>
      refine storeSound_of_ilu_eq (s := commitReport t h s) (by simp) ?_
      refine storeSound_requestPass ?_
      exact storeSound_foldl _ (fun _ p hp => storeSound_offerCommit t h p hp) _ (storeSound_of_ilu_eq (by simp) hs)

theorem storeSound_snoopTaken (t : Tables) (x : SnoopTarget) (v : Word) (hs : StoreSound s) :
    StoreSound (snoopTaken t x v s) := by
  cases x with
  | sequenceWord h => exact storeSound_sequenceAcknowledged t h v hs
  | takeWord =>
    simp only [snoopTaken, takeAcknowledged]
    split
    next => exact hs
    next =>
      refine storeSound_requestPass (storeSound_of_ilu_eq (reclaimAdvance_keeps _ _).2.2.2.2.2.1 ?_)
      exact storeSound_takePositions t _ _ (storeSound_of_ilu_eq (s := s) rfl hs)
  | slotWord k w => exact storeSound_of_ilu_eq (by simp [snoopTaken]) hs
  | submitWord => exact storeSound_of_ilu_eq (by simp [snoopTaken]) hs
  | reportWord h w => exact storeSound_of_ilu_eq (by simp [snoopTaken]) hs

theorem storeSound_takeRunEnd (p : Fin 32) (hs : StoreSound s) : StoreSound (takeRunEnd p s) := by
  simp only [takeRunEnd]
  split
  next => exact storeSound_requestPass (storeSound_timedStop p (storeSound_putPump p _ hs))
  next => exact hs

theorem storeSound_takeConfirmExpiry (p : Fin 32) (hs : StoreSound s) : StoreSound (takeConfirmExpiry p s) := by
  simp only [takeConfirmExpiry]
  split
  next => exact storeSound_of_ilu_eq (by simp) (storeSound_putPump p (confirmExpired (s.psu.pumps.at p)) hs)
  next => exact hs

/-- An empty store is sound. -/
theorem storeSound_of_empty (h : s.ilu.store = Tab.all .free) : StoreSound s := by
  have hnone (e : Fin 8) : storeOrder (s.ilu.store.at e) = none := by rw [h, Tab.at_all]; rfl
  constructor
  · intro e f o q ho
    rw [hnone] at ho
    cases ho
  · intro e o ho
    rw [hnone] at ho
    cases ho

end

theorem storeSound_move {B : Prop} {s s' : State} (h : Move B s s') (hs : StoreSound s) : StoreSound s' := by
  cases h with
  | inert hsame _ => exact storeSound_of_ilu_eq hsame.ilu hs
  | reset q => exact storeSound_of_empty rfl
  | decoded c o _ => exact storeSound_of_ilu_eq (by simp) hs
  | snooped u x e t _ _ => exact storeSound_snoopTaken t x _ (storeSound_of_ilu_eq (by simp) hs)
  | cancelled k t _ => exact storeSound_of_ilu_eq (by simp) hs
  | clockSet tod _ => exact storeSound_of_ilu_eq (by simp) hs
  | sweepStarted t kind _ => exact storeSound_of_ilu_eq (by simp) hs
  | lockoutCleared t _ _ =>
    exact storeSound_requestPass (storeSound_putPump _ _ (storeSound_of_ilu_eq (by simp) hs))
  | swapped new a b _ => exact storeSound_of_empty rfl
  | capJudged => exact storeSound_of_ilu_eq (by simp) hs
  | boundary _ => exact storeSound_of_ilu_eq (by simp) hs
  | edge _ _ => exact storeSound_of_ilu_eq rfl hs
  | confirmTaken p => exact storeSound_takeConfirmExpiry p hs
  | runEndTaken p => exact storeSound_takeRunEnd p hs
  | guardTaken g => exact storeSound_of_ilu_eq (by simp) hs
  | passTaken t _ => exact storeSound_releasePass t hs
  | visited t _ => exact storeSound_of_ilu_eq (by simp) hs

/-- Settles O56: a stop is raised or owed only for a pump that holds no entry, and a flag taken in is one no entry's pump
has. -/
theorem stepKeepsInternalStore : Obligations.StepKeepsInternalStore := fun _ _ hs hstep =>
  step_keeps (fun _ _ => storeSound_move) hstep hs

end Sys2Proof.Machine

/-! PROOFS. The pump records (chapter 3): what each transition keeps of R45's ranges, and the statement that every step
keeps the records sound (R44, R45, R64). -/

namespace Sys2Proof.Machine

open Safety

/-! ### A record's transitions -/

/-- The new record is in R45's ranges where the old one is, raises no allowance, and is in its RESETN condition where the
old one is. -/
structure RecordKept (r r' : PumpRec) : Prop where
  sound : RecordSound r → RecordSound r'
  allowance : r'.allowance ≤ r.allowance
  reset : r = PumpRec.reset → r' = PumpRec.reset

theorem RecordKept.refl (r : PumpRec) : RecordKept r r := ⟨id, Nat.le_refl _, id⟩

/-- A record that is not UNKNOWN is not in its RESETN condition. -/
theorem not_reset_of_state {r : PumpRec} {st : PumpState} (h : r.state = st) (hne : st ≠ .unknown) :
    r ≠ PumpRec.reset := by
  rintro rfl
  exact hne h.symm

theorem recordKept_startReleased (run : Nat) (r : PumpRec) : RecordKept r (startReleased run r) := by
  simp only [startReleased]
  split
  next h =>
    refine ⟨fun hs => ?_, Nat.sub_le _ _, fun hr => absurd hr (not_reset_of_state h (by decide))⟩
    simpa [RecordSound, h] using hs
  next => exact .refl r

theorem recordKept_stopReleased (r : PumpRec) : RecordKept r (stopReleased r) := by
  simp only [stopReleased]
  split
  case h_1 h =>
    refine ⟨fun hs => ?_, Nat.le_refl _, fun hr => absurd hr (not_reset_of_state h (by decide))⟩
    simp only [RecordSound, h] at hs ⊢
    simp_all
  case h_2 h =>
    refine ⟨fun hs => ?_, Nat.le_refl _, fun hr => absurd hr (not_reset_of_state h (by decide))⟩
    simp only [RecordSound, h] at hs ⊢
    simp_all
  all_goals exact .refl r

theorem recordKept_startDispatched (now d : Nat) (r : PumpRec) : RecordKept r (startDispatched now d r) := by
  simp only [startDispatched]
  split
  next h =>
    refine ⟨fun hs => ?_, Nat.le_refl _, fun hr => absurd hr (not_reset_of_state h (by decide))⟩
    simp only [RecordSound, h] at hs ⊢
    simp_all
  next => exact .refl r

theorem recordKept_stopDispatched (now d : Nat) (r : PumpRec) : RecordKept r (stopDispatched now d r) := by
  simp only [stopDispatched]
  split
  next h =>
    refine ⟨fun hs => ?_, Nat.le_refl _, fun hr => absurd hr (not_reset_of_state h (by decide))⟩
    simp only [RecordSound, h] at hs ⊢
    simp_all
  next => exact .refl r

theorem recordKept_confirmExpired (r : PumpRec) : RecordKept r (confirmExpired r) := by
  simp only [confirmExpired]
  split
  case h_1 h =>
    refine ⟨fun hs => ?_, Nat.le_refl _, fun hr => absurd hr (not_reset_of_state h (by decide))⟩
    simp only [RecordSound, h] at hs ⊢
    simp_all
  case h_2 h =>
    refine ⟨fun hs => ?_, Nat.le_refl _, fun hr => absurd hr (not_reset_of_state h (by decide))⟩
    simp only [RecordSound, h] at hs ⊢
    simp_all
  all_goals exact .refl r

theorem recordKept_runEndTaken (r : PumpRec) : RecordKept r { r with runEnd := none } := by
  refine ⟨fun ⟨hlock, hconfirm, _, hstarted⟩ => ⟨hlock, hconfirm, nofun, hstarted⟩, Nat.le_refl _, ?_⟩
  rintro rfl
  rfl

theorem recordKept_lockoutCleared {r : PumpRec} (h : r.state = .lockout) (st : PumpStatic) (now : Epoch)
    (running : Bool) : RecordKept r (lockoutCleared st now running r) := by
  simp only [lockoutCleared]
  split <;> refine ⟨fun hs => ?_, Nat.le_refl _, fun hr => absurd hr (not_reset_of_state h (by decide))⟩
  all_goals
    simp only [RecordSound, h] at hs ⊢
    simp_all

theorem recordKept_judgePumpTimers (now : Epoch) (r : PumpRec) : RecordKept r (judgePumpTimers now r) := by
  refine ⟨fun ⟨hlock, hconfirm, hrun, hstarted⟩ => ⟨hlock, fun h => hconfirm ?_, fun h => hrun ?_, hstarted⟩,
    Nat.le_refl _, ?_⟩
  · simpa [judgePumpTimers] using h
  · simpa [judgePumpTimers] using h
  · rintro rfl
    rfl

theorem recordSound_faultLocked (r : PumpRec) : RecordSound (faultLocked r) := by
  simp [RecordSound, faultLocked]

theorem recordSound_pumpCommitted (st : PumpStatic) (now : Epoch) (running fault : Bool) {r : PumpRec}
    (hs : RecordSound r) : RecordSound (pumpCommitted st now running fault r) := by
  simp only [pumpCommitted]
  split
  next =>
    split
    next => exact hs
    all_goals exact recordSound_faultLocked r
  next =>
    split <;> try exact hs
    all_goals
      rename_i h
      split <;> try exact hs
      all_goals
        simp only [RecordSound, h] at hs ⊢
        simp_all

theorem pumpCommitted_allowance (st : PumpStatic) (now : Epoch) (running fault : Bool) (r : PumpRec) :
    (pumpCommitted st now running fault r).allowance = r.allowance := by
  simp only [pumpCommitted, faultLocked]
  repeat' split
  all_goals rfl

/-! ### The records of the part -/

/-- What is sound of the record of pump p under these tables (R44, R45, R64). -/
def PumpSound (tables : Option Tables) (p : Fin 32) (r : PumpRec) : Prop :=
  RecordSound r
    ∧ (∀ t, tables = some t → configured t p = true → r.allowance ≤ (t.pumps.at p).startsPerHour)
    ∧ (configuredIn tables p = false → r = PumpRec.reset)

section
variable {s s' : State}

theorem pumpsSound_iff : PumpsSound s ↔ ∀ p, PumpSound s.tables p (s.psu.pumps.at p) := Iff.rfl

theorem PumpSound.of_kept {tables : Option Tables} {p : Fin 32} {r r' : PumpRec} (h : RecordKept r r')
    (hs : PumpSound tables p r) : PumpSound tables p r' := by
  obtain ⟨hsound, hallowance, hreset⟩ := hs
  exact ⟨h.sound hsound, fun t ht hc => h.allowance.trans (hallowance t ht hc), fun hc => h.reset (hreset hc)⟩

theorem pumpsSound_of_eq (hpumps : s'.psu.pumps = s.psu.pumps) (ht : s'.tables = s.tables) (hs : PumpsSound s) :
    PumpsSound s' := by
  simpa only [PumpsSound, hpumps, ht] using hs

theorem pumpsSound_putPump {p : Fin 32} {r : PumpRec} (hr : PumpSound s.tables p r) (hs : PumpsSound s) :
    PumpsSound (putPump p r s) := by
  intro q
  simp only [putPump_keeps, putPump_psu, Tab.at_put]
  split
  next h => exact h ▸ hr
  next => exact hs q

/-- One record written that keeps what is sound of it. -/
theorem pumpsSound_putPump_kept {p : Fin 32} {r : PumpRec} (h : RecordKept (s.psu.pumps.at p) r) (hs : PumpsSound s) :
    PumpsSound (putPump p r s) :=
  pumpsSound_putPump (.of_kept h (hs p)) hs

/-! ### Releases and dispatches -/

theorem groupReleased_pumps (t : Tables) (p : Fin 32) (i : Word) (s : State) :
    (groupReleased t p i s).psu.pumps = s.psu.pumps := by
  simp only [groupReleased]
  split <;> rfl

theorem groupDispatched_pumps (t : Tables) (p : Fin 32) (i : Word) (s : State) :
    (groupDispatched t p i s).psu.pumps = s.psu.pumps := by
  simp only [groupDispatched]
  repeat' split
  all_goals rfl

theorem pumpsSound_pumpReleased (p : Fin 32) (a : Action) (run : Nat) (hs : PumpsSound s) :
    PumpsSound (pumpReleased p a run s) := by
  cases a
  · exact pumpsSound_putPump_kept (recordKept_startReleased _ _) hs
  · exact pumpsSound_putPump_kept (recordKept_stopReleased _) hs

theorem pumpsSound_releaseHost (t : Tables) (k : Fin 64) (o : Order) (hs : PumpsSound s) :
    PumpsSound (releaseHost t k o s) := by
  refine pumpsSound_of_eq (groupReleased_pumps _ _ _ _) (groupReleased_keeps _ _ _ _).2.1 ?_
  exact pumpsSound_pumpReleased _ _ _ (pumpsSound_of_eq (by simp) (by simp) hs)

theorem pumpsSound_releaseInternal (t : Tables) (e : Fin 8) (o : InternalOrder) (hs : PumpsSound s) :
    PumpsSound (releaseInternal t e o s) := by
  refine pumpsSound_of_eq (groupReleased_pumps _ _ _ _) (groupReleased_keeps _ _ _ _).2.1 ?_
  exact pumpsSound_pumpReleased _ _ _ (pumpsSound_of_eq (by simp) (by simp) hs)

theorem pumpsSound_releaseRound (t : Tables) (seq0 : Nat) (hs : PumpsSound s) :
    PumpsSound (releaseRound t seq0 s).state := by
  have hwritten : PumpsSound (recordJudgements t (withdrawAll t seq0 s)) := pumpsSound_of_eq (by simp) (by simp) hs
  rcases releaseRound_cases t seq0 s with ⟨e, o, -, h, -⟩ | ⟨-, k, o, -, h, -⟩ | ⟨-, -, h, -⟩ <;> rw [h]
  · exact pumpsSound_releaseInternal t e o hwritten
  · exact pumpsSound_releaseHost t k o hwritten
  · exact hwritten

theorem pumpsSound_releasePass (t : Tables) (hs : PumpsSound s) : PumpsSound (releasePass t s) := by
  have hrounds (n seq0 : Nat) {s : State} (hs : PumpsSound s) : PumpsSound (releaseRounds t seq0 n s).1 := by
    induction n generalizing s with
    | zero => exact hs
    | succ n ih =>
      simp only [releaseRounds]
      split
      next => exact ih (pumpsSound_releaseRound t seq0 hs)
      next => exact pumpsSound_releaseRound t seq0 hs
  have hpass := hrounds 73 s.ilu.nextSeq (pumpsSound_of_eq (s' := expireLate s) (by simp) (by simp) hs)
  simp only [releasePass]
  split
  next => exact pumpsSound_of_eq (by simp) (by simp) hpass
  next => exact hpass

theorem pumpsSound_dispatchPump (t : Tables) (p : Fin 32) (a : Action) (i : Word) (hs : PumpsSound s) :
    PumpsSound (dispatchPump t p a i s) := by
  refine pumpsSound_of_eq (s := groupDispatched t p i (pumpDispatched t p a s)) (by simp [dispatchPump])
    (by simp [dispatchPump]) ?_
  refine pumpsSound_of_eq (groupDispatched_pumps _ _ _ _) (groupDispatched_keeps _ _ _ _).2.1 ?_
  cases a
  · exact pumpsSound_putPump_kept (recordKept_startDispatched _ _ _) hs
  · exact pumpsSound_putPump_kept (recordKept_stopDispatched _ _ _) hs

theorem pumpsSound_dispatchNotice (t : Tables) (i : Word) (a : Origin) (hs : PumpsSound s) :
    PumpsSound (dispatchNotice t i a s) := by
  cases a with
  | host k =>
    have hentry : PumpsSound (entryDispatched k s) := pumpsSound_of_eq (by simp) (by simp) hs
    simp only [dispatchNotice]
    split
    next => exact pumpsSound_dispatchPump t _ _ i hentry
    next => exact hentry
  | internal e =>
    simp only [dispatchNotice]
    split
    next => exact pumpsSound_dispatchPump t _ _ i (pumpsSound_of_eq (by simp) (by simp) hs)
    next => exact hs

theorem pumpsSound_takePositions (t : Tables) (n : Nat) (i : Word) (hs : PumpsSound s) :
    PumpsSound (takePositions t n i s) := by
  induction n generalizing i s with
  | zero => exact hs
  | succ n ih =>
    simp only [takePositions]
    split
    next => exact hs
    next => exact ih _ (pumpsSound_dispatchNotice t i _ hs)

/-! ### Commits -/

theorem pumpsSound_commitPump {t : Tables} {p : Fin 32} (ht : s.tables = some t) (hp : configured t p = true)
    (hs : PumpsSound s) : PumpsSound (commitPump t p s) := by
  let committed : PumpRec :=
    pumpCommitted (t.pumps.at p) s.cbu.now (s.rsu.runningBits.at p) (s.rsu.faultBits.at p) (s.psu.pumps.at p)
  refine pumpsSound_of_eq (s := putPump p committed s) (by simp [commitPump, committed]) (by simp)
    (pumpsSound_putPump ?_ hs)
  obtain ⟨hsound, hallowance, -⟩ := hs p
  refine ⟨recordSound_pumpCommitted _ _ _ _ hsound, fun t' ht' hc => ?_, fun hc => ?_⟩
  · simpa only [committed, pumpCommitted_allowance] using hallowance t' ht' hc
  · simp [configuredIn, ht, hp] at hc

/-- The pumps that a commit is offered to are configured (R110). -/
theorem pumpsSound_offers {t : Tables} (h : Fin 12) (l : List (Fin 32)) (hl : ∀ p ∈ l, configured t p = true)
    (ht : s.tables = some t) (hs : PumpsSound s) : PumpsSound (l.foldl (offerCommit t h) s) := by
  induction l generalizing s with
  | nil => exact hs
  | cons p l ih =>
    refine ih (fun q hq => hl q (List.mem_cons_of_mem p hq)) (by simp [ht]) ?_
    have hp := hl p (by simp)
    simp only [offerCommit]
    split
    next => exact pumpsSound_of_eq (by simp) (by simp) (pumpsSound_commitPump ht hp hs)
    next => exact pumpsSound_of_eq (by simp) (by simp) hs

theorem pumpsSound_sequenceAcknowledged {t : Tables} (h : Fin 12) (q : Word) (ht : s.tables = some t)
    (hs : PumpsSound s) : PumpsSound (sequenceAcknowledged t h q s) := by
  have hoffered : PumpsSound
      ((Tab.numbers 32 (offered t h)).foldl (offerCommit t h) (freshen t h (applyReport t h s))) := by
    refine pumpsSound_offers h _ (fun p hp => ?_) (by simp [ht]) (pumpsSound_of_eq (by simp) (by simp) hs)
    have hoffer : offered t h p = true := (List.mem_filter.mp hp).2
    simp only [offered, Bool.and_eq_true] at hoffer
    exact hoffer.1
  simp only [sequenceAcknowledged]
  split
  next => exact pumpsSound_of_eq (by simp) (by simp) hs
  next =>
    split
    next => exact pumpsSound_of_eq (by simp) (by simp) hs
    next => exact pumpsSound_of_eq (by simp [commitReport]) (by simp) hoffered

theorem pumpsSound_snoopTaken {t : Tables} (x : SnoopTarget) (v : Word) (ht : s.tables = some t) (hs : PumpsSound s) :
    PumpsSound (snoopTaken t x v s) := by
  cases x with
  | sequenceWord h => exact pumpsSound_sequenceAcknowledged h v ht hs
  | takeWord =>
    simp only [snoopTaken, takeAcknowledged]
    split
    next => exact hs
    next =>
      refine pumpsSound_of_eq (s := takePositions t (dist s.rt.take v) s.rt.take (s.setRt { s.rt with take := v }))
        (by simp) (by simp) (pumpsSound_takePositions t _ _ hs)
  | slotWord k w => exact pumpsSound_of_eq (by simp [snoopTaken]) (by simp) hs
  | submitWord => exact pumpsSound_of_eq (by simp [snoopTaken]) (by simp) hs
  | reportWord h w => exact pumpsSound_of_eq (by simp [snoopTaken]) (by simp) hs

/-! ### Expiries, the second boundary, the swap -/

theorem pumpsSound_takeConfirmExpiry (p : Fin 32) (hs : PumpsSound s) : PumpsSound (takeConfirmExpiry p s) := by
  simp only [takeConfirmExpiry]
  split
  next =>
    exact pumpsSound_of_eq (s := putPump p (confirmExpired (s.psu.pumps.at p)) s) (by simp) (by simp)
      (pumpsSound_putPump_kept (recordKept_confirmExpired _) hs)
  next => exact hs

theorem pumpsSound_takeRunEnd (p : Fin 32) (hs : PumpsSound s) : PumpsSound (takeRunEnd p s) := by
  simp only [takeRunEnd]
  split
  next =>
    exact pumpsSound_of_eq (s := putPump p { s.psu.pumps.at p with runEnd := none } s) (by simp) (by simp)
      (pumpsSound_putPump_kept (recordKept_runEndTaken _) hs)
  next => exact hs

/-- The pump that a valid CLEAR_LOCKOUT names is in LOCKOUT (R186). -/
theorem lockout_of_argumentsValid (h : argumentsValid s .clearLockout = true) :
    (s.psu.pumps.at (Fin.ofNat 32 (argument s 0).toNat)).state = .lockout := by
  simp only [argumentsValid, Option.any_eq_true, Bool.and_eq_true, beq_iff_eq] at h
  obtain ⟨t, -, -, hstate⟩ := h
  exact hstate

theorem pumpsSound_acceptClearLockout (t : Tables) (h : argumentsValid s .clearLockout = true) (hs : PumpsSound s) :
    PumpsSound (acceptClearLockout t s) := by
  let p : Fin 32 := Fin.ofNat 32 (argument s 0).toNat
  have hstatus : PumpsSound (setStatus 7 .done .none s) := pumpsSound_of_eq (by simp) (by simp) hs
  refine pumpsSound_of_eq (s := putPump p (lockoutCleared (t.pumps.at p) s.cbu.now (s.rsu.runningBits.at p)
    (s.psu.pumps.at p)) (setStatus 7 .done .none s)) (by simp [acceptClearLockout, reportedRunning, p]) (by simp) ?_
  refine pumpsSound_putPump_kept ?_ hstatus
  have hlock : (s.psu.pumps.at p).state = .lockout := lockout_of_argumentsValid h
  simpa using recordKept_lockoutCleared hlock (t.pumps.at p) s.cbu.now (s.rsu.runningBits.at p)

/-- A record after a second boundary: the allowance at an hour, and the timers judged (R60, R138). -/
def boundaryPump (tables : Option Tables) (now : Epoch) (p : Fin 32) (r : PumpRec) : PumpRec :=
  judgePumpTimers now { r with
    allowance :=
      match tables with
      | some t => if now % 3600 = 0 ∧ configured t p = true then (t.pumps.at p).startsPerHour else r.allowance
      | none => r.allowance }

theorem hour_of_timeOfDay (now : Epoch) : timeOfDay now % 3600 = now % 3600 := Nat.mod_mod_of_dvd _ (by decide)

theorem hourEffects_pump (s : State) (p : Fin 32) : (hourEffects s).psu.pumps.at p =
    { s.psu.pumps.at p with
      allowance :=
        match s.tables with
        | some t => if s.cbu.now % 3600 = 0 ∧ configured t p = true then (t.pumps.at p).startsPerHour
            else (s.psu.pumps.at p).allowance
        | none => (s.psu.pumps.at p).allowance } := by
  simp only [hourEffects, hour_of_timeOfDay]
  cases ht : s.tables with
  | none => split <;> rfl
  | some t =>
    split
    next hhour =>
      simp only [reloadAllowances, State.setPsu_psu, Tab.at_ofFn, hhour, true_and]
      split <;> rfl
    next hhour => simp [hhour]

theorem secondBoundary_pump (s : State) (p : Fin 32) : (secondBoundary s).psu.pumps.at p =
    boundaryPump s.tables (clockEffects s).cbu.now p (s.psu.pumps.at p) := by
  have hpsu : (secondBoundary s).psu = (psuBoundary (hourEffects (clockEffects s))).psu := by simp [secondBoundary]
  rw [hpsu]
  simp [psuBoundary, hourEffects_pump, boundaryPump]

theorem PumpSound.boundaryPump {tables : Option Tables} (now : Epoch) {p : Fin 32} {r : PumpRec}
    (hs : PumpSound tables p r) : PumpSound tables p (boundaryPump tables now p r) := by
  refine .of_kept (recordKept_judgePumpTimers now _) ?_
  cases tables with
  | none => exact hs
  | some t =>
    obtain ⟨hsound, hallowance, hreset⟩ := hs
    refine ⟨hsound, fun t' ht hc => ?_, fun hc => ?_⟩
    · cases ht
      simp only [hc, and_true]
      split
      next => exact Nat.le_refl _
      next => exact hallowance t rfl hc
    · have hc' : configured t p = false := hc
      simpa [hc'] using hreset hc

theorem PumpSound.swapPump {old : Option Tables} (new : Tables) {p : Fin 32} {r : PumpRec} (hs : PumpSound old p r) :
    PumpSound (some new) p (swapPump old new p r) := by
  have hreset : RecordSound PumpRec.reset := by simp [RecordSound, PumpRec.reset]
  simp only [Machine.swapPump]
  split
  next hc =>
    refine ⟨?_, fun t ht _ => ?_, fun h => ?_⟩
    · split
      next => exact hs.1
      next => exact hreset
    · cases ht
      exact Nat.le_refl _
    · simp [configuredIn, hc] at h
  next hc => exact ⟨hreset, fun t ht h => absurd (Option.some.inj ht ▸ h) hc, fun _ => rfl⟩

end

theorem pumpsSound_reset : PumpsSound State.reset := by
  intro p
  have hreset : State.reset.psu.pumps.at p = PumpRec.reset := Tab.at_all _ p
  rw [hreset]
  exact ⟨by simp [RecordSound, PumpRec.reset], fun t ht => (nomatch ht), fun _ => rfl⟩

theorem pumpsSound_move {B : Prop} {s s' : State} (h : Move B s s') (hs : PumpsSound s) : PumpsSound s' := by
  cases h with
  | inert hsame _ => exact pumpsSound_of_eq (by rw [hsame.psu]) hsame.tables hs
  | reset q => exact pumpsSound_of_eq rfl rfl pumpsSound_reset
  | decoded c o _ => exact pumpsSound_of_eq (by simp) (by simp) hs
  | snooped u x e t _ ht => exact pumpsSound_snoopTaken x _ (by simpa using ht) (pumpsSound_of_eq (by simp) (by simp) hs)
  | cancelled k t _ => exact pumpsSound_of_eq (by simp) (by simp) hs
  | clockSet tod _ => exact pumpsSound_of_eq (by simp) (by simp) hs
  | sweepStarted t kind _ => exact pumpsSound_of_eq (by simp) (by simp) hs
  | lockoutCleared t _ hvalid => exact pumpsSound_acceptClearLockout t hvalid hs
  | swapped new a b _ =>
    intro p
    have hpump : (swapTables new a b s).psu.pumps.at p = swapPump s.tables new p (s.psu.pumps.at p) := by
      simp [swapTables, swapPsu]
    rw [hpump]
    exact PumpSound.swapPump new (hs p)
  | capJudged => exact pumpsSound_of_eq (by simp) (by simp) hs
  | boundary _ =>
    intro p
    rw [secondBoundary_pump, (secondBoundary_keeps s).2.1]
    exact PumpSound.boundaryPump _ (hs p)
  | edge _ _ => exact pumpsSound_of_eq rfl rfl hs
  | confirmTaken p => exact pumpsSound_takeConfirmExpiry p hs
  | runEndTaken p => exact pumpsSound_takeRunEnd p hs
  | guardTaken g =>
    refine pumpsSound_of_eq ?_ (by simp) hs
    simp only [takeGuardExpiry]
    split <;> simp
  | passTaken t _ => exact pumpsSound_releasePass t hs
  | visited t _ => exact pumpsSound_of_eq (by simp) (by simp) hs

/-- Settles O55: each transition of a record keeps R45's ranges, spends at most the allowance and leaves a record that is
not configured as it stands. -/
theorem stepKeepsPumpRecords : Obligations.StepKeepsPumpRecords := fun _ _ hs hstep =>
  step_keeps (fun _ _ => pumpsSound_move) hstep hs

end Sys2Proof.Machine

/-! PROOFS. The scheduler state (10.1): no work of an owner moves it. Only the commands RUN, HOLD and RELOAD and the end
of a load do. -/

namespace Sys2Proof.Machine

theorem foldl_sched {α : Type} {f : State → α → State} (h : ∀ s a, (f s a).csu.sched = s.csu.sched) (l : List α)
    (s : State) : (l.foldl f s).csu.sched = s.csu.sched := by
  induction l generalizing s with
  | nil => rfl
  | cons a l ih => rw [List.foldl_cons, ih, h]

@[simp] theorem clearFlags_sched (v : Word) (s : State) :
    (clearFlags v s).csu.sched = s.csu.sched := by
  simp [clearFlags]

@[simp] theorem writeEnables_sched (v : Word) (s : State) :
    (writeEnables v s).csu.sched = s.csu.sched := by
  simp [writeEnables]

@[simp] theorem raiseFlagIf_sched (b : Bool) (f : EventFlag) (s : State) :
    (raiseFlagIf b f s).csu.sched = s.csu.sched := by
  simp only [raiseFlagIf]; (repeat' split) <;> simp

@[simp] theorem raiseFault_sched (k : FaultKind) (c : Cycle) (x : FaultCause) (s : State) :
    (raiseFault k c x s).csu.sched = s.csu.sched := by
  simp only [raiseFault]; (repeat' split) <;> simp

@[simp] theorem commitPump_sched (t : Tables) (p : Fin 32) (s : State) :
    (commitPump t p s).csu.sched = s.csu.sched := by
  simp [commitPump]

@[simp] theorem raiseEntry_sched (e : Fin 8) (p : Fin 32) (c : Cause) (s : State) :
    (raiseEntry e p c s).csu.sched = s.csu.sched := by
  simp [raiseEntry]

@[simp] theorem placeStop_sched (p : Fin 32) (c : Cause) (s : State) :
    (placeStop p c s).csu.sched = s.csu.sched := by
  simp only [placeStop]; (repeat' split) <;> simp

@[simp] theorem evaluatePump_sched (t : Tables) (p : Fin 32) (s : State) :
    (evaluatePump t p s).csu.sched = s.csu.sched := by
  simp only [evaluatePump]; (repeat' split) <;> simp

@[simp] theorem timedStop_sched (p : Fin 32) (s : State) :
    (timedStop p s).csu.sched = s.csu.sched := by
  simp only [timedStop]; (repeat' split) <;> simp

@[simp] theorem takeInFlag_sched (t : Tables) (e : Fin 8) (p : Fin 32) (c : Cause) (s : State) :
    (takeInFlag t e p c s).csu.sched = s.csu.sched := by
  simp only [takeInFlag]; (repeat' split) <;> simp

@[simp] theorem takeInRounds_sched (t : Tables) (n : Nat) (s : State) :
    (takeInRounds t n s).csu.sched = s.csu.sched := by
  induction n generalizing s with
  | zero => rfl
  | succ n ih => simp only [takeInRounds]; (repeat' split) <;> simp [ih]

@[simp] theorem takeIn_sched (t : Tables) (s : State) :
    (takeIn t s).csu.sched = s.csu.sched := by
  simp only [takeIn]; (repeat' split) <;> simp

@[simp] theorem takeInDispatched_sched (t : Tables) (p : Fin 32) (s : State) :
    (takeInDispatched t p s).csu.sched = s.csu.sched := by
  simp only [takeInDispatched]; (repeat' split) <;> simp

@[simp] theorem freeStoreEntry_sched (t : Tables) (e : Fin 8) (s : State) :
    (freeStoreEntry t e s).csu.sched = s.csu.sched := by
  simp [freeStoreEntry]

@[simp] theorem dispatchHandedOver_sched (t : Tables) (p : Fin 32) (a : Action) (s : State) :
    (dispatchHandedOver t p a s).csu.sched = s.csu.sched := by
  simp only [dispatchHandedOver]; (repeat' split) <;> simp

@[simp] theorem admitIndex_sched (t : Tables) (i : Word) (s : State) :
    (admitIndex t i s).csu.sched = s.csu.sched := by
  simp only [admitIndex]; (repeat' split) <;> simp

@[simp] theorem admitFrom_sched (t : Tables) (n : Nat) (i : Word) (s : State) :
    (admitFrom t n i s).csu.sched = s.csu.sched := by
  induction n generalizing i s with
  | zero => rfl
  | succ n ih => simp only [admitFrom]; simp [ih]

@[simp] theorem cancelSlot_sched (t : Tables) (k : Fin 64) (s : State) :
    (cancelSlot t k s).csu.sched = s.csu.sched := by
  simp only [cancelSlot]; (repeat' split) <;> simp

@[simp] theorem submitAcknowledged_sched (t : Tables) (v : Word) (s : State) :
    (submitAcknowledged t v s).csu.sched = s.csu.sched := by
  simp only [submitAcknowledged]; (repeat' split) <;> simp

@[simp] theorem withdrawAll_sched (t : Tables) (q : Nat) (s : State) :
    (withdrawAll t q s).csu.sched = s.csu.sched :=
  foldl_sched (fun _ _ => by simp) _ _

@[simp] theorem markReleased_sched (k : Fin 64) (s : State) :
    (markReleased k s).csu.sched = s.csu.sched := by
  simp only [markReleased]; (repeat' split) <;> simp

@[simp] theorem releaseHost_sched (t : Tables) (k : Fin 64) (o : Order) (s : State) :
    (releaseHost t k o s).csu.sched = s.csu.sched := by
  simp [releaseHost]

@[simp] theorem recordJudgements_sched (t : Tables) (s : State) :
    (recordJudgements t s).csu.sched = s.csu.sched := by
  simp [recordJudgements]

@[simp] theorem releaseRound_sched (t : Tables) (q : Nat) (s : State) :
    (releaseRound t q s).state.csu.sched = s.csu.sched := by
  simp only [releaseRound]; (repeat' split) <;> simp

@[simp] theorem releaseRounds_sched (t : Tables) (q n : Nat) (s : State) :
    (releaseRounds t q n s).1.csu.sched = s.csu.sched := by
  induction n generalizing s with
  | zero => rfl
  | succ n ih => simp only [releaseRounds]; split <;> simp [ih]

@[simp] theorem expireLate_sched (s : State) :
    (expireLate s).csu.sched = s.csu.sched := by
  simp [expireLate]

@[simp] theorem releasePass_sched (t : Tables) (s : State) :
    (releasePass t s).csu.sched = s.csu.sched := by
  simp only [releasePass]; (repeat' split) <;> simp

@[simp] theorem dispatchPump_sched (t : Tables) (p : Fin 32) (a : Action) (i : Word) (s : State) :
    (dispatchPump t p a i s).csu.sched = s.csu.sched := by
  simp [dispatchPump]

@[simp] theorem dispatchNotice_sched (t : Tables) (i : Word) (o : Origin) (s : State) :
    (dispatchNotice t i o s).csu.sched = s.csu.sched := by
  simp only [dispatchNotice]; (repeat' split) <;> simp

@[simp] theorem takePositions_sched (t : Tables) (n : Nat) (i : Word) (s : State) :
    (takePositions t n i s).csu.sched = s.csu.sched := by
  induction n generalizing i s with
  | zero => rfl
  | succ n ih => simp only [takePositions]; split <;> simp [ih]

@[simp] theorem takeAcknowledged_sched (t : Tables) (v : Word) (s : State) :
    (takeAcknowledged t v s).csu.sched = s.csu.sched := by
  simp only [takeAcknowledged]; (repeat' split) <;> simp

@[simp] theorem offerCommit_sched (t : Tables) (h : Fin 12) (s : State) (p : Fin 32) :
    (offerCommit t h s p).csu.sched = s.csu.sched := by
  simp only [offerCommit]; (repeat' split) <;> simp

@[simp] theorem foldl_offerCommit_sched (t : Tables) (h : Fin 12) (l : List (Fin 32)) (s : State) :
    (l.foldl (offerCommit t h) s).csu.sched = s.csu.sched :=
  foldl_sched (fun _ _ => by simp) _ _

@[simp] theorem commitReport_sched (t : Tables) (h : Fin 12) (s : State) :
    (commitReport t h s).csu.sched = s.csu.sched := by
  simp [commitReport]

@[simp] theorem sequenceAcknowledged_sched (t : Tables) (h : Fin 12) (q : Word) (s : State) :
    (sequenceAcknowledged t h q s).csu.sched = s.csu.sched := by
  simp only [sequenceAcknowledged]; (repeat' split) <;> simp

@[simp] theorem minuteEffects_sched (s : State) :
    (minuteEffects s).csu.sched = s.csu.sched := by
  simp [minuteEffects]

@[simp] theorem clockEffects_sched (s : State) :
    (clockEffects s).csu.sched = s.csu.sched := by
  simp only [clockEffects]; (repeat' split) <;> simp

@[simp] theorem secondBoundary_sched (s : State) :
    (secondBoundary s).csu.sched = s.csu.sched := by
  simp [secondBoundary]

@[simp] theorem trefEdge_sched (s : State) :
    (trefEdge s).csu.sched = s.csu.sched := by
  simp only [trefEdge]; (repeat' split) <;> simp

@[simp] theorem setClock_sched (d : Nat) (s : State) :
    (setClock d s).csu.sched = s.csu.sched := by
  simp [setClock]

@[simp] theorem endSweepIfDone_sched (s : State) :
    (endSweepIfDone s).csu.sched = s.csu.sched := by
  simp only [endSweepIfDone]; (repeat' split) <;> simp

@[simp] theorem startSweep_sched (t : Tables) (k : SweepKind) (s : State) :
    (startSweep t k s).csu.sched = s.csu.sched := by
  simp [startSweep]

@[simp] theorem sweepVisit_sched (t : Tables) (s : State) :
    (sweepVisit t s).csu.sched = s.csu.sched := by
  simp only [sweepVisit]; (repeat' split) <;> simp

@[simp] theorem acceptClearLockout_sched (t : Tables) (s : State) :
    (acceptClearLockout t s).csu.sched = s.csu.sched := by
  simp [acceptClearLockout]

@[simp] theorem judgeCapAfresh_sched (s : State) :
    (judgeCapAfresh s).csu.sched = s.csu.sched := by
  simp [judgeCapAfresh]

@[simp] theorem snoopTaken_sched (t : Tables) (x : SnoopTarget) (v : Word) (s : State) :
    (snoopTaken t x v s).csu.sched = s.csu.sched := by
  simp only [snoopTaken]; (repeat' split) <;> simp

@[simp] theorem acknowledgedEffect_sched (o : MemOutcome) (v : Word) (s : State) :
    (acknowledgedEffect o v s).csu.sched = s.csu.sched := by
  simp only [acknowledgedEffect]; (repeat' split) <;> simp

@[simp] theorem takeConfirmExpiry_sched (p : Fin 32) (s : State) :
    (takeConfirmExpiry p s).csu.sched = s.csu.sched := by
  simp only [takeConfirmExpiry]; (repeat' split) <;> simp

@[simp] theorem takeRunEnd_sched (p : Fin 32) (s : State) :
    (takeRunEnd p s).csu.sched = s.csu.sched := by
  simp only [takeRunEnd]; (repeat' split) <;> simp

@[simp] theorem takeStaleExpiry_sched (h : Fin 12) (s : State) :
    (takeStaleExpiry h s).csu.sched = s.csu.sched := by
  simp only [takeStaleExpiry]; (repeat' split) <;> simp

@[simp] theorem takePass_sched (s : State) :
    (takePass s).csu.sched = s.csu.sched := by
  simp only [takePass]; (repeat' split) <;> simp

@[simp] theorem takeVisit_sched (s : State) :
    (takeVisit s).csu.sched = s.csu.sched := by
  simp only [takeVisit]; (repeat' split) <;> simp

@[simp] theorem rejectReload_sched (k : LoadKind) (s : State) :
    (rejectReload k s).csu.sched = s.csu.sched := by
  simp only [rejectReload]; (repeat' split) <;> simp


end Sys2Proof.Machine

/-! PROOFS. The bus (chapters 8 to 10): what the arbiter, the stalls, the loader and the commands keep of the Bus Passage
Unit, and the statement that every step keeps it sound. -/

namespace Sys2Proof.Machine

open Safety

/-! ### What stands while the port may be free with a request waiting -/

/-- A request that waits finds the port taken (R161). -/
def PortFilled (s : State) : Prop := s.bpu.memPort = none → upstreamAt isWaiting s = false ∧ loaderAddr s = none

/-- The bus is sound but for a request that the arbiter has yet to grant. -/
structure BusLoose (s : State) : Prop where
  reset : ResetHeld s
  scheduler : SchedulerSound s
  stall : StallSound s
  master : masterOnPort s = true ↔ upstreamAt isInFlight s = true
  loader : loaderInFlight s = true → (loaderAddr s).isSome = true

theorem busSound_iff {s : State} : BusSound s ↔ BusLoose s ∧ PortFilled s := by
  constructor
  · rintro ⟨hreset, hscheduler, hstall, hmaster, hloader, hfilled⟩
    exact ⟨⟨hreset, hscheduler, hstall, hmaster, hloader⟩, hfilled⟩
  · rintro ⟨⟨hreset, hscheduler, hstall, hmaster, hloader⟩, hfilled⟩
    exact ⟨hreset, hscheduler, hstall, hmaster, hloader, hfilled⟩

/-- The fields the bus's soundness reads stand. -/
structure SameBus (s s' : State) : Prop where
  resetn : s'.bpu.resetn = s.bpu.resetn
  imgsel : s'.bpu.imgsel = s.bpu.imgsel
  memPort : s'.bpu.memPort = s.bpu.memPort
  upstream : s'.bpu.upstream = s.bpu.upstream
  indexStall : s'.bpu.indexStall = s.bpu.indexStall
  iml : s'.iml = s.iml
  sched : s'.csu.sched = s.csu.sched
  tables : s'.tables.isSome = s.tables.isSome

section
variable {s s' : State}

theorem SameBus.of_bpu_eq (hbpu : s'.bpu = s.bpu) (himl : s'.iml = s.iml) (hsched : s'.csu.sched = s.csu.sched)
    (ht : s'.tables = s.tables) : SameBus s s' :=
  ⟨by rw [hbpu], by rw [hbpu], by rw [hbpu], by rw [hbpu], by rw [hbpu], himl, hsched, by rw [ht]⟩

theorem SameBus.loaderAddr (h : SameBus s s') : loaderAddr s' = loaderAddr s := by
  have hregion : regionBase s' = regionBase s := by simp only [regionBase, h.imgsel]
  have hallowed : indexReadsAllowed s' = indexReadsAllowed s := by simp only [indexReadsAllowed, h.indexStall, h.iml]
  simp only [Machine.loaderAddr, hregion, hallowed, h.iml]

theorem SameBus.loose (h : SameBus s s') (hs : BusLoose s) : BusLoose s' := by
  obtain ⟨hreset, hscheduler, hstall, hmaster, hloader⟩ := hs
  refine ⟨?_, ?_, ?_, ?_, ?_⟩
  · simpa only [ResetHeld, h.resetn, h.sched, h.iml, h.memPort, h.upstream] using hreset
  · simpa only [SchedulerSound, h.resetn, h.sched, h.iml, h.indexStall, h.tables] using hscheduler
  · simpa only [StallSound, stalled, upstreamAt, h.sched, h.iml, h.upstream, h.indexStall] using hstall
  · simpa only [masterOnPort, upstreamAt, h.memPort, h.upstream] using hmaster
  · simpa only [loaderInFlight, h.memPort, h.loaderAddr] using hloader

theorem SameBus.filled (h : SameBus s s') (hs : PortFilled s) : PortFilled s' := by
  simpa only [PortFilled, upstreamAt, h.memPort, h.upstream, h.loaderAddr] using hs

theorem SameBus.sound (h : SameBus s s') (hs : BusSound s) : BusSound s' := by
  rw [busSound_iff] at hs ⊢
  exact ⟨h.loose hs.1, h.filled hs.2⟩

/-! ### The arbiter -/

theorem upstreamAt_none (p : UpStage → Bool) (h : s.bpu.upstream = none) : upstreamAt p s = false := by
  simp [upstreamAt, h]

theorem upstreamAt_some (p : UpStage → Bool) {u : UpCycle} (h : s.bpu.upstream = some u) :
    upstreamAt p s = p u.stage := by
  simp [upstreamAt, h]

theorem upstream_of_masterWaiting {c : Cycle} {o : MemOutcome} {ab : Bool} (h : masterWaiting s = some (c, o, ab)) :
    s.bpu.upstream = some { cycle := c, stage := .waiting o, abandoned := ab } := by
  simp only [masterWaiting] at h
  split at h
  next u hu =>
    split at h
    next o' ho =>
      cases h
      rw [hu, ← ho]
    all_goals cases h
  next => cases h

theorem not_waiting_of_masterWaiting (h : masterWaiting s = none) : upstreamAt isWaiting s = false := by
  simp only [masterWaiting] at h
  split at h
  next u hu =>
    rw [upstreamAt_some _ hu]
    split at h
    next => cases h
    next ho => rw [ho]; rfl
    next ho => rw [ho]; rfl
  next hu => exact upstreamAt_none _ hu

/-- A waiting cycle is granted: the port carries it, in flight. -/
theorem busSound_grantMaster {c : Cycle} {o : MemOutcome} {ab : Bool} (h : masterWaiting s = some (c, o, ab))
    (hresetn : s.bpu.resetn = false) (hs : BusLoose s) : BusSound (grantMaster c o ab s) := by
  have hu := upstream_of_masterWaiting h
  have hnotStalled : stalled s = false := by
    cases hstalled : stalled s with
    | false => rfl
    | true =>
      rcases hs.stall.1 hstalled with hnone | hheld
      · simp [hu] at hnone
      · simp [upstreamAt_some _ hu, isHeld] at hheld
  refine busSound_iff.mpr ⟨⟨?_, hs.scheduler, ⟨fun hstalled => ?_, fun hheld => ?_, hs.stall.2.2⟩, ?_, ?_⟩, ?_⟩
  · intro hreset
    exact absurd hreset (by simp [grantMaster, hresetn])
  · exact absurd (hnotStalled ▸ hstalled : false = true) (by decide)
  · simp [upstreamAt, grantMaster, isHeld] at hheld
  · simp [masterOnPort, upstreamAt, grantMaster, isInFlight]
  · simp [loaderInFlight, grantMaster]
  · simp [PortFilled, grantMaster]

/-- The loader's read is granted. -/
theorem busSound_grantLoader {a : Addr} (h : loaderAddr s = some a) (hresetn : s.bpu.resetn = false)
    (hport : s.bpu.memPort = none) (hs : BusLoose s) : BusSound (grantLoader a s) := by
  refine busSound_iff.mpr ⟨⟨?_, hs.scheduler, hs.stall, ?_, fun _ => ?_⟩, ?_⟩
  · intro hreset
    exact absurd hreset (by simp [grantLoader, hresetn])
  · have hmaster : masterOnPort s = false := by simp [masterOnPort, hport]
    have hflight := hs.master
    rw [hmaster] at hflight
    simpa [masterOnPort, grantLoader, upstreamAt] using hflight
  · have haddr : loaderAddr (grantLoader a s) = some a := h
    simp [haddr]
  · simp [PortFilled, grantLoader]

/-- After the arbiter has judged, no request waits for a free port. -/
theorem busSound_grant (hs : BusLoose s) : BusSound (grant s) := by
  cases hresetn : s.bpu.resetn with
  | true =>
    obtain ⟨-, hkind, -, hup⟩ := hs.reset hresetn
    have hphase : s.iml.phase = .idle := hs.scheduler.2.2.1.mp hkind
    rw [grant_idle hup hphase, busSound_iff]
    exact ⟨hs, fun _ => ⟨upstreamAt_none _ hup, by simp [loaderAddr, hphase]⟩⟩
  | false =>
    cases hport : s.bpu.memPort with
    | some m =>
      rw [grant_busy s (by simp [hport]), busSound_iff]
      exact ⟨hs, fun hnone => by simp [hport] at hnone⟩
    | none =>
      simp only [grant, hresetn, hport, Option.isSome_none, Bool.or_self, Bool.false_eq_true, if_false]
      split
      next hm hl => exact busSound_iff.mpr ⟨hs, fun _ => ⟨not_waiting_of_masterWaiting hm, hl⟩⟩
      next hm _ => exact busSound_grantMaster hm hresetn hs
      next _ hl => exact busSound_grantLoader hl hresetn hport hs
      next hm hl =>
        split
        next => exact busSound_grantMaster hm hresetn hs
        next => exact busSound_grantLoader hl hresetn hport hs

/-! ### Commands and carried-out cycles

`F` says whether the port is known to be filled: it is where a cycle is presented, and not yet where a load ends. -/

/-- The bus is sound, but for the port's filling where `F` fails. -/
def BusAt (F : Prop) (s : State) : Prop := BusLoose s ∧ (F → PortFilled s)

theorem busSound_iff_busAt : BusSound s ↔ BusAt True s :=
  busSound_iff.trans ⟨fun ⟨h, h'⟩ => ⟨h, fun _ => h'⟩, fun ⟨h, h'⟩ => ⟨h, h' trivial⟩⟩

variable {F : Prop}

theorem SameBus.busAt (h : SameBus s s') (hs : BusAt F s) : BusAt F s' :=
  ⟨h.loose hs.1, fun hF => h.filled (hs.2 hF)⟩

/-- What reads the same bus is as sound. -/
theorem BusAt.same (hs : BusAt F s) (h : SameBus s s') : BusAt F s' := h.busAt hs

theorem busAt_of_busSound (hs : BusSound s) : BusAt F s :=
  ⟨(busSound_iff.mp hs).1, fun _ => (busSound_iff.mp hs).2⟩

/-- Outside LOADING the index stall alone stalls (R159, R160). -/
theorem stalled_of_not_loading (h : s.csu.sched ≠ .loading) : stalled s = s.bpu.indexStall := by
  simp [stalled, h]

/-- RUN and HOLD move the scheduler state between HOLD and RUN (R184, R185). -/
theorem busAt_setSched {x : Sched} (hx : x = .hold ∨ x = .run) (hsched : s.csu.sched = .hold ∨ s.csu.sched = .run)
    (hs : BusAt F s) : BusAt F (setSched x s) := by
  obtain ⟨⟨hreset, hscheduler, hstall, hmaster, hloader⟩, hfilled⟩ := hs
  have hnotStalled : stalled (setSched x s) = stalled s := by
    have hold : s.csu.sched ≠ .loading := by rcases hsched with h | h <;> simp [h]
    have hnew : (setSched x s).csu.sched ≠ .loading := by rcases hx with rfl | rfl <;> simp
    rw [stalled_of_not_loading hold, stalled_of_not_loading hnew, (setSched_keeps x s).1]
  obtain ⟨hloading, hreloading, hnone, hcomplete, horigin, htables⟩ := hscheduler
  refine ⟨⟨fun hr => ?_, ⟨?_, ?_, hnone, hcomplete, horigin, ?_⟩, ?_, hmaster, hloader⟩, hfilled⟩
  · have := (hreset hr).1
    rcases hsched with h | h <;> simp [h] at this
  · rcases hx with rfl | rfl <;> rcases hsched with h | h <;> simpa [h] using hloading
  · rcases hx with rfl | rfl <;> rcases hsched with h | h <;> simpa [h] using hreloading
  · rcases hx with rfl | rfl <;> rcases hsched with h | h <;> simpa [h] using htables
  · simp only [StallSound, hnotStalled]
    exact hstall

/-- RELOAD is accepted in HOLD and UNLOADED with no load in progress (R174). -/
theorem busSound_acceptReload (hsched : s.csu.sched = .hold ∨ s.csu.sched = .unloaded) (hs : BusLoose s) :
    BusSound (acceptReload s) := by
  obtain ⟨hreset, ⟨hloading, hreloading, hnone, hcomplete, horigin, htables⟩, hstall, hmaster, hloader⟩ := hs
  have hresetn : s.bpu.resetn = false := by
    cases hr : s.bpu.resetn with
    | false => rfl
    | true =>
      have := (hreset hr).1
      rcases hsched with h | h <;> simp [h] at this
  have hkind : s.iml.kind ≠ .reload := fun h => by
    have := hreloading.mpr h
    rcases hsched with h | h <;> simp [h] at this
  have hstanding : s.bpu.indexStall = false := by
    cases h : s.bpu.indexStall with
    | false => rfl
    | true => exact absurd (hstall.2.2 h).1 hkind
  have horiginNone : s.iml.origin = none := by
    cases h : s.iml.origin with
    | none => rfl
    | some o => exact absurd (horigin.mp (by simp [h])) hkind
  refine busSound_grant ⟨fun hr => ?_, ⟨?_, ?_, ?_, ?_, ?_, ?_⟩, ⟨?_, ?_, ?_⟩, hmaster, fun _ => ?_⟩
  · exact absurd hr (by simp [hresetn])
  · simp [hresetn]
  · simp
  · simp
  · simp
  · simp
  · rcases hsched with h | h <;> simp [h, horiginNone] at htables ⊢ <;> exact htables
  · simp [stalled, hstanding]
  · intro hheld
    have hstalled := hstall.2.1 hheld
    rw [stalled_of_not_loading (by rcases hsched with h | h <;> simp [h]), hstanding] at hstalled
    cases hstalled
  · simp [hstanding]
  · simp [loaderAddr]

theorem busAt_acceptCommand {cmd : Command} (hcheck : commandCheck s cmd = .none) (hs : BusAt F s) :
    BusAt F (acceptCommand cmd s) := by
  have haccepted : acceptedIn cmd s.csu.sched = true := by
    cases h : acceptedIn cmd s.csu.sched with
    | true => rfl
    | false => simp [commandCheck, h] at hcheck
  cases cmd with
  | run =>
    have hsched : s.csu.sched = .hold := by simpa [acceptedIn] using haccepted
    have hrun : BusAt F (setSched .run (setStatus 1 .done .none s)) :=
      busAt_setSched (.inr rfl) (.inl hsched) (BusAt.same hs ⟨rfl, rfl, rfl, rfl, rfl, rfl, rfl, rfl⟩)
    exact BusAt.same hrun ⟨rfl, rfl, rfl, rfl, rfl, rfl, rfl, rfl⟩
  | hold =>
    have hsched : s.csu.sched = .hold ∨ s.csu.sched = .run := by simpa [acceptedIn] using haccepted
    exact busAt_setSched (.inl rfl) hsched (BusAt.same hs ⟨rfl, rfl, rfl, rfl, rfl, rfl, rfl, rfl⟩)
  | reload =>
    have hsched : s.csu.sched = .hold ∨ s.csu.sched = .unloaded := by simpa [acceptedIn] using haccepted
    exact busAt_of_busSound (busSound_acceptReload hsched hs.1)
  | setTime =>
    simp only [acceptCommand]
    split
    next => exact hs.same (.of_bpu_eq (by simp) (by simp) (by simp) (by simp))
    next => exact hs
  | cancelTag =>
    simp only [acceptCommand]
    split
    next => exact hs.same (.of_bpu_eq (by simp) (by simp) (by simp) (by simp))
    next => exact hs
  | withdrawHouse =>
    simp only [acceptCommand]
    split
    next => exact hs.same (.of_bpu_eq (by simp) (by simp) (by simp) (by simp))
    next => exact hs
  | clearLockout =>
    simp only [acceptCommand]
    split
    next => exact hs.same (.of_bpu_eq (by simp) (by simp) (by simp) (by simp))
    next => exact hs

theorem busAt_takeCommand (code : Word) (hs : BusAt F s) : BusAt F (takeCommand code s) := by
  have hwritten : BusAt F (s.setCsu { s.csu with commandWord := code }) :=
    BusAt.same hs ⟨rfl, rfl, rfl, rfl, rfl, rfl, rfl, rfl⟩
  simp only [takeCommand]
  split
  next => exact BusAt.same hs ⟨rfl, rfl, rfl, rfl, rfl, rfl, rfl, rfl⟩
  next cmd _ =>
    split
    next hcheck => exact busAt_acceptCommand hcheck hwritten
    all_goals exact BusAt.same hs ⟨rfl, rfl, rfl, rfl, rfl, rfl, rfl, rfl⟩

theorem busAt_statusWrite (w : Fin 64) (v : Word) (hs : BusAt F s) : BusAt F (statusWrite w v s) := by
  simp only [statusWrite]
  split
  next => exact busAt_takeCommand v hs
  next => exact BusAt.same hs ⟨rfl, rfl, rfl, rfl, rfl, rfl, rfl, rfl⟩
  next => exact BusAt.same hs ⟨rfl, rfl, rfl, rfl, rfl, rfl, rfl, rfl⟩
  next => exact BusAt.same hs ⟨rfl, rfl, rfl, rfl, rfl, rfl, rfl, rfl⟩
  next => exact hs.same (.of_bpu_eq (by simp) (by simp) (by simp) (by simp))
  next => exact hs.same (.of_bpu_eq (by simp) (by simp) (by simp) (by simp))
  next => exact BusAt.same hs ⟨rfl, rfl, rfl, rfl, rfl, rfl, rfl, rfl⟩
  next => exact BusAt.same hs ⟨rfl, rfl, rfl, rfl, rfl, rfl, rfl, rfl⟩
  next => exact BusAt.same hs ⟨rfl, rfl, rfl, rfl, rfl, rfl, rfl, rfl⟩
  next => exact hs

theorem busAt_absorbEffect (target : AbsorbTarget) (v : Word) (hs : BusAt F s) :
    BusAt F (absorbEffect target v s) := by
  cases target with
  | status w => exact busAt_statusWrite w v hs
  | cancel k =>
    simp only [absorbEffect]
    split
    next => exact hs.same (.of_bpu_eq (by simp) (by simp) (by simp) (by simp))
    next => exact hs

/-- The end of a cycle where none is in progress changes the last ending alone. -/
theorem sameBus_endCycle (hup : s.bpu.upstream = none) (e : UpEnding) : SameBus s (endCycle e s) :=
  ⟨rfl, rfl, rfl, hup.symm, rfl, rfl, rfl, rfl⟩

theorem sameBus_raiseFault (kind : FaultKind) (c : Cycle) (cause : FaultCause) (s : State) :
    SameBus s (raiseFault kind c cause s) := by
  refine ⟨?_, ?_, ?_, raiseFault_upstream kind c cause s, ?_, by simp, by simp, by simp⟩
  all_goals
    simp only [raiseFault]
    repeat' split
    all_goals rfl

/-- A cycle ended at its decode with a fault. -/
theorem busAt_fault (e : UpEnding) (kind : FaultKind) (c : Cycle) (cause : FaultCause) (hup : s.bpu.upstream = none)
    (hs : BusAt F s) : BusAt F (endCycle e (raiseFault kind c cause s)) :=
  (hs.same (sameBus_raiseFault kind c cause s)).same (sameBus_endCycle ((raiseFault_upstream kind c cause s).trans hup) e)

/-- A cycle decoded with none in progress and no stall in force. -/
theorem busAt_carryOut (c : Cycle) (d : Decoded) (hresetn : s.bpu.resetn = false) (hup : s.bpu.upstream = none)
    (hstalled : stalled s = false) (hs : BusAt F s) : BusAt F (carryOut c d s) := by
  cases d with
  | memory o =>
    obtain ⟨hreset, hscheduler, hstall, hmaster, hloader⟩ := hs.1
    refine busAt_of_busSound
      (busSound_grant ⟨fun hr => ?_, hscheduler, ⟨fun h => ?_, fun h => ?_, hstall.2.2⟩, ?_, hloader⟩)
    · exact absurd hr (by simp [hresetn])
    · exact absurd (hstalled ▸ h : false = true) (by decide)
    · simp [upstreamAt, isHeld] at h
    · rw [upstreamAt_none _ hup] at hmaster
      simpa [masterOnPort, upstreamAt, isInFlight] using hmaster
  | answer v => exact (sameBus_endCycle hup _).busAt hs
  | stray => exact busAt_fault _ _ c _ hup hs
  | refuse kind cause => exact busAt_fault _ kind c cause hup hs
  | absorb target => exact busAt_absorbEffect target c.data ((sameBus_endCycle hup _).busAt hs)

/-! ### The rows of the bus -/

theorem busSound_present (row : Decoded → Bool) (c : Cycle) (hs : BusSound s) : BusSound (present row c s) := by
  simp only [present]
  split
  next => exact hs
  next hfree =>
    have hresetn : s.bpu.resetn = false := by cases h : s.bpu.resetn <;> simp_all
    have hup : s.bpu.upstream = none := by cases h : s.bpu.upstream <;> simp_all
    obtain ⟨⟨hreset, hscheduler, hstall, hmaster, hloader⟩, hfilled⟩ := busSound_iff.mp hs
    split
    next hstalled =>
      refine busSound_iff.mpr ⟨⟨fun hr => ?_, hscheduler, ⟨fun _ => .inr rfl, fun _ => hstalled, hstall.2.2⟩, ?_, hloader⟩,
        fun hport => ⟨rfl, (hfilled hport).2⟩⟩
      · exact absurd hr (by simp [hresetn])
      · rw [upstreamAt_none _ hup] at hmaster
        exact hmaster
    next hstalled =>
      split
      next =>
        exact busSound_iff_busAt.mpr
          (busAt_carryOut c _ hresetn hup (by simpa using hstalled) (busSound_iff_busAt.mp hs))
      next => exact hs

theorem busSound_abandonCycle (hs : BusSound s) : BusSound (abandonCycle s) := by
  obtain ⟨⟨hreset, hscheduler, hstall, hmaster, hloader⟩, hfilled⟩ := busSound_iff.mp hs
  simp only [abandonCycle]
  split
  next => exact hs
  next u hu =>
    have hat (p : UpStage → Bool) : upstreamAt p s = p u.stage := upstreamAt_some p hu
    have hrunsOn : BusSound (setUpstream (some { u with abandoned := true }) s.bpu.ending s) := by
      refine busSound_iff.mpr ⟨⟨fun hr => ?_, hscheduler, ⟨fun h => .inr ?_, fun h => hstall.2.1 ?_, hstall.2.2⟩, ?_,
        hloader⟩, fun hport => ⟨?_, (hfilled hport).2⟩⟩
      · simp [(hreset hr).2.2.2] at hu
      · simpa [hu, upstreamAt] using hstall.1 h
      · rw [hat]
        exact h
      · rw [hat] at hmaster
        exact hmaster
      · have := (hfilled hport).1
        rw [hat] at this
        exact this
    split
    next hheld =>
      rw [hat, hheld] at hmaster
      exact busSound_iff.mpr ⟨⟨fun hr => ⟨(hreset hr).1, (hreset hr).2.1, (hreset hr).2.2.1, rfl⟩, hscheduler,
        ⟨fun _ => .inl rfl, nofun, hstall.2.2⟩, hmaster, hloader⟩, fun hport => ⟨rfl, (hfilled hport).2⟩⟩
    next => exact hrunsOn
    next => exact hrunsOn

/-! ### Acknowledge and timeout of a master's cycle -/

theorem masterInFlight_eq_some {u : UpCycle} {o : MemOutcome} (h : masterInFlight s = some (u, o)) :
    s.bpu.upstream = some u ∧ u.stage = .inFlight o ∧ loaderInFlight s = false := by
  simp only [masterInFlight] at h
  split at h
  next m u' hm hu =>
    split at h
    next howner hstage =>
      cases h
      exact ⟨hu, hstage, by simp [loaderInFlight, hm, howner]⟩
    all_goals cases h
  next => cases h

/-- The port falls free and the master's cycle ends; a request may wait now. -/
theorem busLoose_endMaster (u : UpCycle) (e : UpEnding) (hs : BusLoose s) : BusLoose (endMaster u e s) :=
  ⟨fun hr => ⟨(hs.reset hr).1, (hs.reset hr).2.1, rfl, rfl⟩, hs.scheduler, ⟨fun _ => .inl rfl, nofun, hs.stall.2.2⟩,
    ⟨nofun, nofun⟩, nofun⟩

theorem busSound_masterAcknowledged (u : UpCycle) (o : MemOutcome) (data : Word) (hs : BusLoose s) :
    BusSound (masterAcknowledged u o data s) :=
  have hended := busLoose_endMaster u (.ack (if u.cycle.write then none else some data)) hs
  busSound_grant (SameBus.loose (.of_bpu_eq (by simp) (by simp) (by simp) (by simp)) hended)

theorem busSound_masterTimedOut (u : UpCycle) (hs : BusLoose s) : BusSound (masterTimedOut u s) :=
  busSound_grant ((sameBus_raiseFault _ _ _ _).loose (busLoose_endMaster u _ hs))

theorem busSound_acknowledgeSnoop (row : SnoopTarget → Bool) (hs : BusSound s) : BusSound (acknowledgeSnoop row s) := by
  simp only [acknowledgeSnoop]
  repeat' split
  all_goals first
    | exact hs
    | exact busSound_masterAcknowledged _ _ _ (busSound_iff.mp hs).1

/-! ### The end of a load -/

/-- The loader has ended its load: IDLE, no stall, the port free, and the scheduler state says whether tables are in force
(R168, R173, R176). -/
structure LoadOver (s : State) : Prop where
  resetn : s.bpu.resetn = false
  memPort : s.bpu.memPort = none
  indexStall : s.bpu.indexStall = false
  kind : s.iml.kind = .none
  phase : s.iml.phase = .idle
  origin : s.iml.origin = none
  master : upstreamAt isInFlight s = false
  sched : s.csu.sched = .hold ∧ s.tables.isSome = true ∨ s.csu.sched = .unloaded ∧ s.tables.isSome = false

theorem LoadOver.not_loading (h : LoadOver s) : s.csu.sched ≠ .loading := by
  rcases h.sched with ⟨h, -⟩ | ⟨h, -⟩ <;> simp [h]

theorem LoadOver.not_stalled (h : LoadOver s) : stalled s = false :=
  (stalled_of_not_loading h.not_loading).trans h.indexStall

/-- With no cycle held the bus is sound but for the arbiter's grant. -/
theorem LoadOver.loose (h : LoadOver s) (hheld : upstreamAt isHeld s = false) : BusLoose s := by
  refine ⟨fun hr => ?_, ⟨?_, ?_, ?_, ?_, ?_, ?_⟩, ⟨?_, ?_, ?_⟩, ?_, ?_⟩
  · exact absurd hr (by simp [h.resetn])
  · simp [h.not_loading, h.resetn, h.kind]
  · rcases h.sched with ⟨hsched, -⟩ | ⟨hsched, -⟩ <;> simp [hsched, h.kind]
  · simp [h.kind, h.phase]
  · simp [h.phase]
  · simp [h.origin, h.kind]
  · rcases h.sched with ⟨hsched, ht⟩ | ⟨hsched, ht⟩ <;> simp [hsched, ht, h.origin]
  · simp [h.not_stalled]
  · simp [hheld]
  · simp [h.indexStall]
  · simp [masterOnPort, h.memPort, h.master]
  · simp [loaderInFlight, h.memPort]

/-- The held cycle is decoded, and the port granted. -/
theorem LoadOver.busSound (h : LoadOver s) : BusSound (grant (endStall s)) := by
  refine busSound_grant ?_
  simp only [endStall]
  split
  next hup => exact h.loose (upstreamAt_none _ hup)
  next u hu =>
    split
    next =>
      have hfree : LoadOver (setUpstream none s.bpu.ending s) :=
        ⟨h.resetn, h.memPort, h.indexStall, h.kind, h.phase, h.origin, rfl, h.sched⟩
      have hcarried := busAt_carryOut (F := False) u.cycle (decodeCycle s u.cycle) hfree.resetn rfl hfree.not_stalled
        ⟨hfree.loose rfl, nofun⟩
      exact hcarried.1
    next hstage => exact h.loose (by rw [upstreamAt_some _ hu, hstage]; rfl)
    next hstage => exact h.loose (by rw [upstreamAt_some _ hu, hstage]; rfl)

theorem LoadOver.same (h : LoadOver s) (hsame : SameBus s s') : LoadOver s' :=
  { resetn := hsame.resetn.trans h.resetn
    memPort := hsame.memPort.trans h.memPort
    indexStall := hsame.indexStall.trans h.indexStall
    kind := hsame.iml ▸ h.kind
    phase := hsame.iml ▸ h.phase
    origin := hsame.iml ▸ h.origin
    master := by simpa only [upstreamAt, hsame.upstream] using h.master
    sched := by simpa only [hsame.sched, hsame.tables] using h.sched }

/-- A load can end here: the port is free, no master's cycle in flight, and the scheduler state a failed load returns to
says whether tables are in force. -/
structure LoadEnding (s : State) : Prop where
  resetn : s.bpu.resetn = false
  memPort : s.bpu.memPort = none
  master : upstreamAt isInFlight s = false
  sched : failedSched s = .hold ∧ s.tables.isSome = true ∨ failedSched s = .unloaded ∧ s.tables.isSome = false

/-- The scheduler state that a load in progress would fail to (R173, R178). -/
theorem failedSched_of_loose (hs : BusLoose s) (hload : s.iml.kind ≠ .none) :
    failedSched s = .hold ∧ s.tables.isSome = true ∨ failedSched s = .unloaded ∧ s.tables.isSome = false := by
  obtain ⟨hloading, hreloading, -, -, horigin, htables⟩ := hs.scheduler
  cases hkind : s.iml.kind with
  | none => exact absurd hkind hload
  | powerOn =>
    have hsched := hloading.mpr (.inr hkind)
    have horiginNone : s.iml.origin = none := by simpa [hkind] using horigin
    exact .inr ⟨by simp [failedSched, hkind], by simpa [hsched, horiginNone] using htables⟩
  | reload =>
    have hsched := hreloading.mpr hkind
    cases ho : s.iml.origin with
    | none => simp [hkind, ho] at horigin
    | some origin =>
      cases origin with
      | hold => exact .inl ⟨by simp [failedSched, hkind, ho], by simpa [hsched, ho] using htables⟩
      | unloaded => exact .inr ⟨by simp [failedSched, hkind, ho], by simpa [hsched, ho] using htables⟩

theorem loadEnding_of_loose (hs : BusLoose s) (hload : s.iml.kind ≠ .none) (hport : s.bpu.memPort = none) :
    LoadEnding s where
  resetn := by
    cases hr : s.bpu.resetn with
    | false => rfl
    | true => exact absurd (hs.reset hr).2.1 hload
  memPort := hport
  master := by
    have hmaster := hs.master
    simpa [masterOnPort, hport] using hmaster
  sched := failedSched_of_loose hs hload

theorem LoadEnding.failLoad (reason : ImageReason) (h : LoadEnding s) : BusSound (failLoad reason s) :=
  LoadOver.busSound
    { resetn := by simpa [endLoad] using h.resetn
      memPort := by simpa [endLoad] using h.memPort
      indexStall := by simp [endLoad]
      kind := by simp [endLoad, Iml.idleWith]
      phase := by simp [endLoad, Iml.idleWith]
      origin := by simp [endLoad, Iml.idleWith]
      master := by simpa [endLoad, upstreamAt] using h.master
      sched := by simpa [endLoad] using h.sched }

/-- A load that succeeds leaves its tables in force in HOLD (R173, R176). -/
theorem LoadEnding.succeed (h : LoadEnding s) (new : Tables) (a b : Word) :
    LoadOver (succeed (swapTables new a b s)) :=
  { resetn := h.resetn
    memPort := h.memPort
    indexStall := rfl
    kind := rfl
    phase := rfl
    origin := rfl
    master := h.master
    sched := .inl ⟨rfl, rfl⟩ }

theorem LoadEnding.completeReload (h : LoadEnding s) (new : Tables) (a b : Word) :
    BusSound (completeReload new a b s) := by
  simp only [Machine.completeReload]
  split
  next => exact h.failLoad _
  next =>
    split
    next => exact h.failLoad _
    next =>
      refine LoadOver.busSound ((h.succeed new a b).same ?_)
      exact ⟨by simp [Machine.succeed, endLoad], by simp [Machine.succeed, endLoad], by simp [Machine.succeed, endLoad],
        by simp [Machine.succeed, endLoad], by simp [Machine.succeed, endLoad], by simp [Machine.succeed, endLoad],
        by simp [Machine.succeed, endLoad], by simp [Machine.succeed, endLoad]⟩

/-- Both index values read, the load completes or fails (R173, R176). -/
theorem LoadEnding.takeCompletion (h : LoadEnding s) (hload : s.iml.kind ≠ .none) (hsubmit : s.iml.indexSubmit.isSome = true)
    (htake : s.iml.indexTake.isSome = true) : BusSound (takeCompletion s) := by
  obtain ⟨a, ha⟩ := Option.isSome_iff_exists.mp hsubmit
  obtain ⟨b, hb⟩ := Option.isSome_iff_exists.mp htake
  rw [takeCompletion_of_values ha hb]
  simp only [completeLoad]
  split
  next => exact LoadOver.busSound (h.succeed _ a b)
  next => exact h.completeReload _ a b
  next hkind => exact absurd hkind hload

/-! ### Fetch reads -/

/-- The port falls free after the loader's read. -/
theorem busLoose_freePort (hflight : loaderInFlight s = true) (hs : BusLoose s) : BusLoose (freePort s) := by
  have hmaster : masterOnPort s = false := by
    cases hm : s.bpu.memPort with
    | none => simp [masterOnPort, hm]
    | some m =>
      have howner : m.owner = .loader := by simpa [loaderInFlight, hm] using hflight
      simp [masterOnPort, hm, howner]
  have hstage := hs.master
  rw [hmaster] at hstage
  exact ⟨fun hr => ⟨(hs.reset hr).1, (hs.reset hr).2.1, rfl, (hs.reset hr).2.2.2⟩, hs.scheduler, hs.stall, hstage, nofun⟩

/-- A load goes on in another phase that reads: no index stall stands before INDEX (R160). -/
theorem busSound_continueLoad {phase : LoadPhase} (next : Nat) (data : Word) (hnew : phase ≠ .idle ∧ phase ≠ .complete)
    (hphase : s.iml.phase = .header ∨ s.iml.phase = .body) (hport : s.bpu.memPort = none) (hs : BusLoose s) :
    BusSound (continueLoad phase next data s) := by
  obtain ⟨hreset, ⟨hloading, hreloading, hnone, hcomplete, horigin, htables⟩, hstall, hmaster, hloader⟩ := hs
  have hkind : s.iml.kind ≠ .none := fun h => by
    have := hnone.mp h
    rcases hphase with h' | h' <;> simp [h'] at this
  have hstanding : s.bpu.indexStall = false := by
    cases h : s.bpu.indexStall with
    | false => rfl
    | true =>
      have := (hstall.2.2 h).2
      rcases hphase with h' | h' <;> simp [h'] at this
  refine busSound_grant ⟨hreset, ⟨hloading, hreloading, ?_, ?_, horigin, htables⟩, ⟨hstall.1, hstall.2.1, ?_⟩, hmaster, ?_⟩
  · simp [hkind, hnew.1]
  · simp [hnew.2]
  · simp [hstanding]
  · simp [loaderInFlight, hport]

theorem kind_of_phase (hs : BusLoose s) (hphase : s.iml.phase ≠ .idle) : s.iml.kind ≠ .none :=
  fun h => hphase (hs.scheduler.2.2.1.mp h)

theorem busSound_imageWordRead (data : Word) (hport : s.bpu.memPort = none) (hs : BusLoose s)
    (hphase : s.iml.phase = .header ∨ s.iml.phase = .body) : BusSound (imageWordRead data s) := by
  have hgoOn {phase : LoadPhase} (next : Nat) (hnew : phase ≠ .idle ∧ phase ≠ .complete) :
      BusSound (continueLoad phase next data s) := busSound_continueLoad next data hnew hphase hport hs
  have hfail (r : ImageReason) : BusSound (failLoad r s) :=
    (loadEnding_of_loose hs (kind_of_phase hs (by rcases hphase with h | h <;> simp [h])) hport).failLoad r
  simp only [imageWordRead]
  split
  next =>
    split
    next => exact hgoOn _ (by decide)
    next =>
      simp only [headerRead]
      split
      next => exact hgoOn _ (by decide)
      next => exact hfail _
  next =>
    split
    next => exact hgoOn _ (by decide)
    next =>
      simp only [bodyRead]
      split
      next => exact hgoOn _ (by decide)
      next => exact hfail _
  all_goals
    rename_i h
    rcases hphase with h' | h' <;> simp [h'] at h

/-- An index word read: the second ends a power-on load; in a reload the completion is taken or stands (R4, R176). -/
theorem busSound_indexWordRead (data : Word) (atOnce : Bool) (hport : s.bpu.memPort = none) (hs : BusLoose s)
    (hphase : s.iml.phase = .index) (hallowed : indexReadsAllowed s = true) :
    BusSound (indexWordRead data atOnce s) := by
  have hkind : s.iml.kind ≠ .none := kind_of_phase hs (by simp [hphase])
  obtain ⟨hreset, ⟨hloading, hreloading, hnone, hcomplete, horigin, htables⟩, hstall, hmaster, hloader⟩ := id hs
  simp only [indexWordRead]
  split
  next =>
    refine busSound_grant ⟨hreset, ⟨hloading, hreloading, hnone, ?_, horigin, htables⟩, hstall, hmaster, ?_⟩
    · simp [hphase]
    · simp [loaderInFlight, hport]
  next submit hsubmit =>
    have hending : LoadEnding (s.setIml { s.iml with indexTake := some data, phase := .complete }) := by
      obtain ⟨hresetn, hport', hmaster', hsched⟩ := loadEnding_of_loose hs hkind hport
      exact ⟨hresetn, hport', hmaster', hsched⟩
    simp only [takeWordRead]
    split
    next => exact hending.takeCompletion hkind (by simp [hsubmit]) (by simp)
    next hstands =>
      have hreload : s.iml.kind = .reload := by
        cases h : s.iml.kind <;> simp_all
      have hstanding : s.bpu.indexStall = true := by simpa [indexReadsAllowed, hreload] using hallowed
      refine busSound_iff.mpr ⟨⟨hreset, ⟨hloading, hreloading, ?_, fun _ => ?_, horigin, htables⟩,
        ⟨hstall.1, hstall.2.1, ?_⟩, hmaster, ?_⟩, fun _ => ⟨?_, rfl⟩⟩
      · simp [hkind]
      · simp [hreload, hstanding, hsubmit]
      · simp [hreload]
      · simp [loaderInFlight, hport]
      · have hstalled : stalled s = true := by simp [stalled, hstanding]
        rcases hstall.1 hstalled with hup | hheld
        · exact upstreamAt_none _ hup
        · cases hu : s.bpu.upstream with
          | none => simp [upstreamAt, hu]
          | some u =>
            rw [upstreamAt_some _ hu] at hheld
            cases hst : u.stage <;> simp_all [upstreamAt, isHeld, isWaiting]

theorem busSound_loaderAcknowledged (data : Word) (atOnce : Bool) (hflight : loaderInFlight s = true) (hs : BusSound s) :
    BusSound (loaderAcknowledged data atOnce s) := by
  obtain ⟨hloose, -⟩ := busSound_iff.mp hs
  have haddr := hloose.loader hflight
  have hfree := busLoose_freePort hflight hloose
  simp only [loaderAcknowledged]
  split
  next hphase =>
    have hallowed : indexReadsAllowed s = true := by
      cases h : indexReadsAllowed s with
      | true => rfl
      | false => simp [loaderAddr, hphase, h] at haddr
    exact busSound_indexWordRead data atOnce rfl hfree hphase hallowed
  next hphase => exact busSound_imageWordRead data rfl hfree (.inl hphase)
  next hphase => exact busSound_imageWordRead data rfl hfree (.inr hphase)
  next hphase => simp [loaderAddr, hphase] at haddr
  next hphase => simp [loaderAddr, hphase] at haddr

theorem busSound_memoryAcknowledged (data : Word) (hs : BusSound s) : BusSound (memoryAcknowledged data s) := by
  simp only [memoryAcknowledged]
  split
  next => exact busSound_masterAcknowledged _ _ _ (busSound_iff.mp hs).1
  next =>
    split
    next hflight => exact busSound_loaderAcknowledged data false hflight hs
    next => exact hs

/-- A load with a read in flight is in progress. -/
theorem kind_of_loaderInFlight (hflight : loaderInFlight s = true) (hs : BusLoose s) : s.iml.kind ≠ .none := by
  refine kind_of_phase hs fun hphase => ?_
  have haddr := hs.loader hflight
  simp [loaderAddr, hphase] at haddr

theorem busSound_memoryTimedOut (hs : BusSound s) : BusSound (memoryTimedOut s) := by
  obtain ⟨hloose, -⟩ := busSound_iff.mp hs
  simp only [memoryTimedOut]
  split
  next => exact busSound_masterTimedOut _ hloose
  next =>
    split
    next hflight =>
      exact (loadEnding_of_loose (busLoose_freePort hflight hloose) (s := freePort s)
        (kind_of_loaderInFlight (s := s) hflight hloose) rfl).failLoad _
    next => exact hs

/-! ### The index stall, RESETN -/

/-- In COMPLETE nothing is on the port: no load reads, and the stall lets no master's cycle begin (R160, R176). -/
theorem loadEnding_of_complete (hphase : s.iml.phase = .complete) (hs : BusLoose s) : LoadEnding s := by
  refine loadEnding_of_loose hs (kind_of_phase hs (by simp [hphase])) ?_
  obtain ⟨-, hstanding, -⟩ := hs.scheduler.2.2.2.1 hphase
  have hnotLoader : loaderInFlight s = false := by
    cases h : loaderInFlight s with
    | false => rfl
    | true => simpa [loaderAddr, hphase] using hs.loader h
  have hnotFlying : upstreamAt isInFlight s = false := by
    rcases hs.stall.1 (by simp [stalled, hstanding]) with hup | hheld
    · exact upstreamAt_none _ hup
    · cases hu : s.bpu.upstream with
      | none => simp [upstreamAt, hu]
      | some u =>
        rw [upstreamAt_some _ hu] at hheld
        cases hst : u.stage <;> simp_all [upstreamAt, isHeld, isInFlight]
  have hnotMaster : masterOnPort s = false := by
    cases h : masterOnPort s with
    | false => rfl
    | true => simp [hs.master.mp h] at hnotFlying
  cases hm : s.bpu.memPort with
  | none => rfl
  | some m => cases howner : m.owner <;> simp [loaderInFlight, masterOnPort, hm, howner] at hnotLoader hnotMaster

theorem busSound_serveIndexStall (hs : BusSound s) : BusSound (serveIndexStall s) := by
  obtain ⟨hloose, -⟩ := busSound_iff.mp hs
  simp only [serveIndexStall]
  split
  next hphase =>
    obtain ⟨hkind, -, hsubmit, htake⟩ := hloose.scheduler.2.2.2.1 hphase
    exact (loadEnding_of_complete hphase hloose).takeCompletion (by simp [hkind]) hsubmit htake
  next hphase =>
    split
    next hgrantable =>
      simp only [stallGrantable, Bool.and_eq_true, beq_iff_eq, Option.isNone_iff_eq_none] at hgrantable
      obtain ⟨⟨⟨hkind, hindex⟩, -⟩, hup⟩ := hgrantable
      obtain ⟨hreset, ⟨hloading, hreloading, hnone, -, horigin, htables⟩, -, hmaster, -⟩ := hloose
      refine busSound_grant ⟨hreset, ⟨hloading, hreloading, hnone, fun h => absurd h hphase, horigin, htables⟩,
        ⟨fun _ => .inl hup, fun _ => ?_, fun _ => ⟨hkind, .inl hindex⟩⟩, hmaster, fun _ => ?_⟩
      · simp [stalled]
      · cases h : s.iml.indexSubmit <;> simp [loaderAddr, hindex, indexReadsAllowed, h]
    next => exact hs

theorem busSound_resetReleased (v : BitVec 4) (hs : BusSound s) : BusSound (resetReleased v s) := by
  obtain ⟨⟨hreset, ⟨hloading, hreloading, hnone, hcomplete, horigin, htables⟩, hstall, hmaster, hloader⟩, -⟩ :=
    busSound_iff.mp hs
  simp only [resetReleased]
  split
  next hresetn =>
    obtain ⟨hsched, hkind, hport, hup⟩ := hreset hresetn
    have horiginNone : s.iml.origin = none := by simpa [hkind] using horigin
    have hnoTables : s.tables.isSome = false := by simpa [hsched, horiginNone] using htables
    refine busSound_grant ⟨nofun, ⟨?_, ?_, ?_, ?_, ?_, ?_⟩, ⟨fun _ => .inl hup, ?_, ?_⟩, hmaster, fun _ => rfl⟩
    · simp [hsched]
    · simp [hsched]
    · simp
    · simp
    · simp [Iml.idleWith]
    · simp [hsched, hnoTables, Iml.idleWith]
    · simp [upstreamAt, hup]
    · intro hstanding
      simp [(hstall.2.2 hstanding).1] at hkind
  next => exact hs

theorem busSound_reset (q : List Instr) : BusSound (State.reset.setPending q) := by
  have hreset : BusSound State.reset := by
    refine busSound_iff.mpr ⟨⟨fun _ => ⟨rfl, rfl, rfl, rfl⟩, ?_, ⟨fun _ => .inl rfl, nofun, nofun⟩, ⟨nofun, nofun⟩, nofun⟩,
      fun _ => ⟨rfl, rfl⟩⟩
    exact ⟨⟨fun _ => .inl rfl, fun _ => rfl⟩, ⟨nofun, nofun⟩, ⟨fun _ => rfl, fun _ => rfl⟩, nofun, ⟨nofun, nofun⟩, by decide⟩
  exact SameBus.sound (.of_bpu_eq rfl rfl rfl rfl) hreset

/-! ### Every command, every step -/

@[simp] theorem takeStaleExpiry_bus (h : Fin 12) (s : State) : (takeStaleExpiry h s).bpu = s.bpu ∧
    (takeStaleExpiry h s).tables = s.tables ∧ (takeStaleExpiry h s).iml = s.iml := by
  simp only [takeStaleExpiry]; split <;> simp

@[simp] theorem takePass_bus (s : State) :
    (takePass s).bpu = s.bpu ∧ (takePass s).tables = s.tables ∧ (takePass s).iml = s.iml := by
  simp only [takePass]; (repeat' split) <;> simp

@[simp] theorem takeVisit_bus (s : State) :
    (takeVisit s).bpu = s.bpu ∧ (takeVisit s).tables = s.tables ∧ (takeVisit s).iml = s.iml := by
  simp only [takeVisit]; (repeat' split) <;> simp

theorem busSound_exec {c : Instr} (h : exec c s = .next s') (hs : BusSound s) : BusSound s' := by
  cases c
  case resetnAssert => cases h; exact busSound_reset _
  case resetnRelease v => cases h; exact busSound_resetReleased v hs
  case secondBoundary =>
    cases h
    split
    next => exact SameBus.sound (.of_bpu_eq (by simp) (by simp) (by simp) (by simp)) hs
    next => exact hs
  case confirmExpiry p => cases h; exact SameBus.sound (.of_bpu_eq (by simp) (by simp) (by simp) (by simp)) hs
  case runEnd p => cases h; exact SameBus.sound (.of_bpu_eq (by simp) (by simp) (by simp) (by simp)) hs
  case guardExpiry g => cases h; exact SameBus.sound (.of_bpu_eq (by simp) (by simp) (by simp) (by simp)) hs
  case staleExpiry p => cases h; exact SameBus.sound (.of_bpu_eq (by simp) (by simp) (by simp) (by simp)) hs
  case releasePass => cases h; exact SameBus.sound (.of_bpu_eq (by simp) (by simp) (by simp) (by simp)) hs
  case sweepVisit => cases h; exact SameBus.sound (.of_bpu_eq (by simp) (by simp) (by simp) (by simp)) hs
  case memoryAcknowledge data => cases h; exact busSound_memoryAcknowledged data hs
  case memoryPortTimeout => cases h; exact busSound_memoryTimedOut hs
  case cycleAbandon => cases h; exact busSound_abandonCycle hs
  case fetchRead data =>
    cases h
    split
    next hflight => exact busSound_loaderAcknowledged data true (by simp_all) hs
    next => exact hs
  case indexRead data =>
    cases h
    split
    next hflight => exact busSound_loaderAcknowledged data true (by simp_all) hs
    next => exact hs
  case indexStall => cases h; exact busSound_serveIndexStall hs
  case unknownCommand code =>
    cases h
    split
    next => exact hs
    next => exact busSound_present _ _ hs
  case submitAdvance => cases h; exact busSound_acknowledgeSnoop _ hs
  case takeAdvance => cases h; exact busSound_acknowledgeSnoop _ hs
  case slotWordWrite => cases h; exact busSound_acknowledgeSnoop _ hs
  case reportWordWrite => cases h; exact busSound_acknowledgeSnoop _ hs
  case sequenceWordWrite => cases h; exact busSound_acknowledgeSnoop _ hs
  all_goals cases h; exact busSound_present _ _ hs

/-- Settles O58: of the commands only RUN, HOLD and RELOAD move the scheduler, a cycle comes and goes with its stage, a load
ends whole, and the arbiter's grant leaves no request waiting for a free port. -/
theorem stepKeepsBus : Obligations.StepKeepsBus := by
  intro s s' hs hstep
  simp only [step] at hstep
  split at hstep
  next => cases hstep; exact SameBus.sound (.of_bpu_eq (by simp) (by simp) (by simp) (by simp)) hs
  next rest _ => exact busSound_exec hstep (SameBus.sound (s' := s.setPending rest) (.of_bpu_eq rfl rfl rfl rfl) hs)

end

end Sys2Proof.Machine

/-! PROOFS. The judgements of chapter 4: what each check reads, when an order passes them all, and the statements about
the verdicts (R78 to R90). -/

namespace Sys2Proof.Machine

open Safety

/-! ### What each check reads -/

section
variable {t : Tables} {s : State} {p : Fin 32} {k : Fin 64} {o : Order}

theorem reached_iff {x now : Epoch} : reached x now = true ↔ epochOffset x now ≤ 0 := by simp [reached]

theorem passed_iff {x : Option Epoch} {now : Epoch} :
    passed x now = true ↔ ∀ e, x = some e → epochOffset e now ≤ 0 := by
  cases x <;> simp [passed, reached]

theorem houseFresh_iff :
    houseFresh t s p = true ↔ ∃ x, (s.rsu.houses.at (t.pumps.at p).house).freshness = .fresh x := by
  unfold houseFresh
  split <;> simp_all

theorem groupQuiet_iff :
    groupQuiet t s p = true ↔ s.psu.groups.at (t.houses.at (t.pumps.at p).house).group = .quiet := beq_iff_eq

theorem stopOwed_eq_false_iff : stopOwed s p = false ↔ s.ilu.owed.at p = none := by
  simp [stopOwed]

theorem loadAllows_iff : loadAllows t s p = true ↔
    committedLoad t s (t.pumps.at p).feeder + (t.pumps.at p).startingUnits ≤ t.limits.at (t.pumps.at p).feeder :=
  decide_eq_true_iff

theorem suctionAllows_iff :
    suctionAllows t s p = true ↔
      (t.reservoirs.at (t.houses.at (t.pumps.at p).house).suction).fixed = true
        ∨ ∃ l, s.rsu.levels.at (t.houses.at (t.pumps.at p).house).suction = some l
          ∧ (t.reservoirs.at (t.houses.at (t.pumps.at p).house).suction).lowSuction ≤ l := by
  simp only [suctionAllows, houseOfPump, Bool.or_eq_true, Option.any_eq_true]
  exact or_congr_right (exists_congr fun _ => and_congr_right fun _ => decide_eq_true_iff)

theorem deliveryAllows_iff :
    deliveryAllows t s p = true ↔
      (t.reservoirs.at (t.houses.at (t.pumps.at p).house).delivery).fixed = true
        ∨ ∃ l, s.rsu.levels.at (t.houses.at (t.pumps.at p).house).delivery = some l
          ∧ l < (t.reservoirs.at (t.houses.at (t.pumps.at p).house).delivery).high := by
  simp only [deliveryAllows, houseOfPump, Bool.or_eq_true, Option.any_eq_true]
  exact or_congr_right (exists_congr fun _ => and_congr_right fun _ => decide_eq_true_iff)

theorem hasRoom_iff : hasRoom t s = true ↔ (s.rt.release - s.rt.take).toNat < t.map.ringSize.slots :=
  decide_eq_true_iff

/-- The head of a queue is its WAITING order nearest to reclaim (R79). -/
theorem isHead_iff : isHead t s k p = true ↔
    ∃ d, d < t.map.ringSize.slots ∧ slotOf t.map.ringSize (indexAfter s.rt.reclaim d) = k
      ∧ (∃ o, waitingOrder (s.ob.at k) = some o ∧ o.pump = p)
      ∧ ∀ c, c < d → ¬ ∃ o,
          waitingOrder (s.ob.at (slotOf t.map.ringSize (indexAfter s.rt.reclaim c))) = some o ∧ o.pump = p := by
  simp only [isHead, beq_iff_eq, slotsFrom, List.find?_map, Option.map_eq_some_iff, List.find?_range_eq_some,
    Function.comp, Option.any_eq_true, List.mem_range, Bool.not_eq_true', ← Bool.not_eq_true]
  constructor
  · rintro ⟨d, ⟨hqueued, hd, hfirst⟩, rfl⟩
    exact ⟨d, hd, rfl, hqueued, hfirst⟩
  · rintro ⟨d, hd, rfl, hqueued, hfirst⟩
    exact ⟨d, ⟨hqueued, hd, hfirst⟩, rfl⟩

/-! ### The order of the checks -/

/-- Checks 2 and 3 passed in RUN, the action's own checks decide (R78 to R80). -/
theorem judgeHost_of_reached (hrun : s.csu.sched = .run) (hhead : isHead t s k o.pump = true)
    (hreached : reached o.earliest s.cbu.now = true) :
    (o.action = .start → judgeHost t s k o = judgeStart t s o)
      ∧ (o.action = .stop → judgeHost t s k o = judgeStop t s o) := by
  constructor <;> intro haction <;> simp [judgeHost, hrun, hhead, hreached, haction]

theorem judgeHost_eligible_iff : judgeHost t s k o = .eligible ↔
    s.csu.sched = .run ∧ isHead t s k o.pump = true ∧ reached o.earliest s.cbu.now = true
      ∧ ((o.action = .start ∧ judgeStart t s o = .eligible) ∨ (o.action = .stop ∧ judgeStop t s o = .eligible)) := by
  cases h : o.action <;> simp [judgeHost, h, ite_eq_iff]

theorem judgeStart_eligible_iff : judgeStart t s o = .eligible ↔
    (s.psu.pumps.at o.pump).state = .stopped ∧ judgeStoppedStart t s o = .eligible := by
  unfold judgeStart
  cases h : (s.psu.pumps.at o.pump).state <;> simp

/-- Checks 6 to 16 of a START (R82 to R88). -/
theorem judgeStoppedStart_eligible_iff : judgeStoppedStart t s o = .eligible ↔
    passed (s.psu.pumps.at o.pump).rest s.cbu.now = true ∧ (s.psu.pumps.at o.pump).allowance ≠ 0
      ∧ houseFresh t s o.pump = true ∧ (s.rsu.houses.at (t.pumps.at o.pump).house).localControl = false
      ∧ groupQuiet t s o.pump = true ∧ (holdsEntry s o.pump = false ∧ stopOwed s o.pump = false)
      ∧ loadAllows t s o.pump = true ∧ (suctionAllows t s o.pump = true ∧ deliveryAllows t s o.pump = true)
      ∧ (t.bands.at s.cbu.band).floor ≤ o.priority ∧ (s.cbu.capReached = false ∨ 6 ≤ o.priority)
      ∧ hasRoom t s = true := by
  simp only [judgeStoppedStart, ite_eq_iff, reduceCtorEq, and_false, false_or, and_true, Bool.not_eq_true',
    Bool.not_eq_false, Bool.or_eq_true, not_or, Bool.not_eq_true, Bool.and_eq_true, decide_eq_true_eq, not_and, not_lt,
    Bool.and_eq_false_iff, ne_eq, imp_iff_not_or]

theorem judgeStop_eligible_iff : judgeStop t s o = .eligible ↔
    (s.psu.pumps.at o.pump).state = .running ∧ passed (s.psu.pumps.at o.pump).minRun s.cbu.now = true
      ∧ groupQuiet t s o.pump = true ∧ hasRoom t s = true := by
  unfold judgeStop
  cases h : (s.psu.pumps.at o.pump).state <;> simp [h, ite_eq_iff]

end

/-- Settles O13: each check is the next of the chain that 4.2 writes, and the order is eligible past the last. -/
theorem eligibleExactlyWhenEveryCheckPasses : Obligations.EligibleExactlyWhenEveryCheckPasses := by
  refine ⟨fun t s k o => ?_, fun t s k p => isHead_iff⟩
  simp only [← passed_iff, ← houseFresh_iff, ← groupQuiet_iff, ← stopOwed_eq_false_iff, ← loadAllows_iff,
    ← suctionAllows_iff, ← deliveryAllows_iff, ← hasRoom_iff]
  simp only [← reached_iff]
  have hpast (h : (s.csu.sched = .run ∧ isHead t s k o.pump = true) ∧ reached o.earliest s.cbu.now = true) :
      (o.action = .start → judgeHost t s k o = judgeStart t s o)
        ∧ (o.action = .stop → judgeHost t s k o = judgeStop t s o) := judgeHost_of_reached h.1.1 h.1.2 h.2
  refine ⟨?held, ?queue, ?notYet, fun hstart => ?start, fun hstop => ?stop⟩
  case held => intro h; simp [judgeHost, h]
  case queue => rintro ⟨hrun, h⟩; simp_all [judgeHost]
  case notYet => rintro ⟨⟨hrun, hhead⟩, h⟩; simp_all [judgeHost]
  case start =>
    have hchecks (hstate : (s.psu.pumps.at o.pump).state = .stopped) : judgeStart t s o = judgeStoppedStart t s o := by
      simp only [judgeStart, hstate]
    refine ⟨?_, ?_, ?_, ?_, ?_, ?_, ?_, ?_, ?_, ?_, ?_, ?eligible⟩
    case eligible => grind [judgeHost_eligible_iff, judgeStart_eligible_iff, judgeStoppedStart_eligible_iff]
    all_goals grind [judgeStoppedStart]
  case stop =>
    refine ⟨?_, ?_, ?_, ?eligible⟩
    case eligible => grind [judgeHost_eligible_iff, judgeStop_eligible_iff]
    all_goals grind [judgeStop]

theorem judgeStoppedStart_ne_refuse (t : Tables) (s : State) (o : Order) (r : Reason) :
    judgeStoppedStart t s o ≠ .refuse r := by simp [judgeStoppedStart, ite_eq_iff]

/-- Settles O14: past the first three checks each state of the pump has its row in R81 and R89. -/
theorem pumpStateDecidesVerdict : Obligations.PumpStateDecidesVerdict := by
  intro t s k o hrun hhead hreached
  obtain ⟨hstart, hstop⟩ := judgeHost_of_reached hrun hhead hreached
  refine ⟨fun haction => ?_, fun haction => ?_⟩
  · rw [hstart haction]
    cases hstate : (s.psu.pumps.at o.pump).state
    case stopped => simpa [judgeStart, hstate] using judgeStoppedStart_ne_refuse t s o
    all_goals simp [judgeStart, hstate]
  · rw [hstop haction]
    cases hstate : (s.psu.pumps.at o.pump).state
    case running => simp [judgeStop, hstate, ite_eq_iff]
    all_goals simp [judgeStop, hstate]

end Sys2Proof.Machine

/-! PROOFS. The release list (chapters 1 and 4): what keeps a RELEASED order and its position, how a release appends one
and a take advance removes one, and the statement that every step keeps the list (R8, R12, R13, R68). -/

namespace Sys2Proof.Machine

open Safety

/-! ### The order of an origin -/

/-- The order of the origin is RELEASED after as before, with the same grant time and order. -/
def SameOrigin (s s' : State) : Origin → Prop
  | .host k => ((s'.ob.at k).state = .released ↔ (s.ob.at k).state = .released)
      ∧ ((s.ob.at k).state = .released → (s'.ob.at k).grant = (s.ob.at k).grant ∧ (s'.ob.at k).order = (s.ob.at k).order)
  | .internal e => ∀ o g, s'.ilu.store.at e = .released o g ↔ s.ilu.store.at e = .released o g

section
variable {t : Tables} {s s' s'' : State} {a : Origin}

theorem SameOrigin.refl : SameOrigin s s a := by
  cases a <;> simp [SameOrigin]

theorem SameOrigin.trans (h : SameOrigin s s' a) (h' : SameOrigin s' s'' a) : SameOrigin s s'' a := by
  cases a with
  | host k =>
    obtain ⟨hstate, hfields⟩ := h
    obtain ⟨hstate', hfields'⟩ := h'
    refine ⟨hstate'.trans hstate, fun hr => ?_⟩
    obtain ⟨hgrant, horder⟩ := hfields hr
    obtain ⟨hgrant', horder'⟩ := hfields' (hstate.mpr hr)
    exact ⟨hgrant'.trans hgrant, horder'.trans horder⟩
  | internal e => exact fun o g => (h' o g).trans (h o g)

theorem SameOrigin.of_eq (hob : s'.ob = s.ob) (hstore : s'.ilu.store = s.ilu.store) : SameOrigin s s' a := by
  cases a <;> simp [SameOrigin, hob, hstore]

/-- An entry that is not RELEASED before or after. -/
theorem SameOrigin.of_not_released {k : Fin 64} (h : (s.ob.at k).state ≠ .released) (h' : (s'.ob.at k).state ≠ .released) :
    SameOrigin s s' (.host k) :=
  ⟨⟨fun hr => absurd hr h', fun hr => absurd hr h⟩, fun hr => absurd hr h⟩

theorem SameOrigin.released_iff (h : SameOrigin s s' a) : OriginReleased s' a ↔ OriginReleased s a := by
  cases a with
  | host k => exact h.1
  | internal e => exact exists_congr fun o => exists_congr fun g => h o g

theorem SameOrigin.holds {x : Released} {p : Fin 32} (h : SameOrigin s s' x.origin) (hx : HoldsReleased t s x p) :
    HoldsReleased t s' x p := by
  unfold HoldsReleased at hx ⊢
  split at hx
  next k hk =>
    rw [hk] at h
    obtain ⟨hlt, hstate, hgrant, horder⟩ := hx
    obtain ⟨hgrant', horder'⟩ := h.2 hstate
    exact ⟨hlt, h.1.mpr hstate, hgrant'.trans hgrant, by rwa [horder']⟩
  next e he =>
    rw [he] at h
    obtain ⟨o, ho, hp⟩ := hx
    exact ⟨o, (h _ _).mpr ho, hp⟩

theorem originReleased_of_holds {x : Released} {p : Fin 32} (h : HoldsReleased t s x p) : OriginReleased s x.origin := by
  unfold HoldsReleased at h
  unfold OriginReleased
  split at h
  next => exact h.2.1
  next => obtain ⟨o, ho, -⟩ := h; exact ⟨o, _, ho⟩

end

/-! ### The list from a position on -/

/-- The main group of the pump's house. -/
def mainGroup (t : Tables) (s : State) (p : Fin 32) : GroupRec :=
  s.psu.groups.at (t.houses.at (t.pumps.at p).house).group

/-- The list holds one entry for each position from i to release, and each RELEASED order holds one of them (R12, R13,
R68). -/
structure ListFrom (t : Tables) (i : Word) (s : State) : Prop where
  bound : dist i s.rt.release ≤ t.map.ringSize.slots
  length : s.rt.list.length = dist i s.rt.release
  nodup : (s.rt.list.map fun x => x.origin).Nodup
  origins : ∀ a, OriginReleased s a ↔ a ∈ s.rt.list.map fun x => x.origin
  positions : ∀ d x, s.rt.list[d]? = some x →
    ∃ p, HoldsReleased t s x p ∧ mainGroup t s p = .armed (t.pumps.at p).house (indexAfter i d)

theorem releaseListSound_iff {t : Tables} {s : State} (ht : s.tables = some t) : ReleaseListSound s ↔
    ListFrom t s.rt.take s ∧ ∀ v, snoopedValue .takeWord s = some v → legalTake s v = true := by
  simp only [ReleaseListSound, ht]
  exact ⟨fun ⟨h1, h2, h3, h4, h5, h6⟩ => ⟨⟨h1, h2, h3, h4, h5⟩, h6⟩, fun ⟨⟨h1, h2, h3, h4, h5⟩, h6⟩ => ⟨h1, h2, h3, h4, h5, h6⟩⟩

theorem releaseListSound_iff_none {s : State} (ht : s.tables = none) :
    ReleaseListSound s ↔ s.rt = Rt.reset ∧ ∀ a, ¬ OriginReleased s a := by
  simp only [ReleaseListSound, ht]

/-- The list and every RELEASED order stand, and no group leaves ARMED. -/
structure ListKept (s s' : State) : Prop where
  same : ∀ a, SameOrigin s s' a
  list : s'.rt.list = s.rt.list
  release : s'.rt.release = s.rt.release
  take : s'.rt.take = s.rt.take
  armed : ∀ g h i, s.psu.groups.at g = .armed h i → s'.psu.groups.at g = .armed h i

section
variable {t : Tables} {i : Word} {s s' s'' : State}

theorem ListKept.refl : ListKept s s := ⟨fun _ => .refl, rfl, rfl, rfl, fun _ _ _ h => h⟩

theorem ListKept.trans (h : ListKept s s') (h' : ListKept s' s'') : ListKept s s'' :=
  ⟨fun a => (h.same a).trans (h'.same a), h'.list.trans h.list, h'.release.trans h.release, h'.take.trans h.take,
    fun g x j hg => h'.armed g x j (h.armed g x j hg)⟩

theorem ListKept.of_eq (hob : s'.ob = s.ob) (hstore : s'.ilu.store = s.ilu.store) (hrt : s'.rt = s.rt)
    (hgroups : s'.psu.groups = s.psu.groups) : ListKept s s' :=
  ⟨fun _ => .of_eq hob hstore, by rw [hrt], by rw [hrt], by rw [hrt], fun g h i hg => by rwa [hgroups]⟩

theorem ListKept.listFrom (h : ListKept s s') (hs : ListFrom t i s) : ListFrom t i s' := by
  obtain ⟨hbound, hlength, hnodup, horigins, hpositions⟩ := hs
  refine ⟨by rwa [h.release], by rwa [h.list, h.release], by rwa [h.list], fun a => ?_, fun d x hx => ?_⟩
  · rw [(h.same a).released_iff, h.list]
    exact horigins a
  · rw [h.list] at hx
    obtain ⟨p, hholds, hgroup⟩ := hpositions d x hx
    exact ⟨p, (h.same _).holds hholds, h.armed _ _ _ hgroup⟩

theorem ListKept.legalTake (h : ListKept s s') {v : Word} (hv : legalTake s v = true) : legalTake s' v = true := by
  simpa only [Machine.legalTake, h.take, h.release] using hv

/-- The list is kept, and no write to the take word is on the bus but one that was there. -/
theorem releaseListSound_of_kept (ht : s'.tables = s.tables) (h : ListKept s s') (hrt : s.tables = none → s'.rt = s.rt)
    (hsnoop : NoNewSnoop s s') (hs : ReleaseListSound s) : ReleaseListSound s' := by
  cases htables : s.tables with
  | none =>
    obtain ⟨hreset, hnone⟩ := (releaseListSound_iff_none htables).mp hs
    refine (releaseListSound_iff_none (ht.trans htables)).mpr ⟨(hrt htables).trans hreset, fun a => ?_⟩
    rw [(h.same a).released_iff]
    exact hnone a
  | some t =>
    obtain ⟨hlist, hlegal⟩ := (releaseListSound_iff htables).mp hs
    refine (releaseListSound_iff (ht.trans htables)).mpr ⟨?_, fun v hv => h.legalTake (hlegal v (hsnoop _ v hv))⟩
    rw [h.take]
    exact h.listFrom hlist

/-! ### A release appends a position, a dispatch notice removes one -/

/-- A release at position `release`: the origin is new, its group was QUIET and is ARMED now (R12, R68, R94). -/
theorem ListFrom.released {a : Origin} {g : Epoch} {p : Fin 32} (hs : ListFrom t i s)
    (hroom : dist i s.rt.release < t.map.ringSize.slots)
    (hrt : s'.rt = { s.rt with list := s.rt.list ++ [{ origin := a, grant := g }], release := s.rt.release + 1 })
    (hfresh : ¬ OriginReleased s a) (hothers : ∀ b, b ≠ a → SameOrigin s s' b)
    (hnew : HoldsReleased t s' { origin := a, grant := g } p) (hquiet : mainGroup t s p = .quiet)
    (hgroups : s'.psu.groups = s.psu.groups.put (t.houses.at (t.pumps.at p).house).group
      (.armed (t.pumps.at p).house s.rt.release)) : ListFrom t i s' := by
  obtain ⟨hbound, hlength, hnodup, horigins, hpositions⟩ := hs
  have hslots := t.map.ringSize.slots_le
  have hdist : dist i (s.rt.release + 1) = dist i s.rt.release + 1 := dist_succ_right (by omega)
  have hnotMem : a ∉ s.rt.list.map fun x => x.origin := fun h => hfresh ((horigins a).mpr h)
  refine ⟨?_, ?_, ?_, fun b => ?_, fun d x hx => ?_⟩
  · rw [hrt]
    exact hdist ▸ hroom
  · rw [hrt]
    simpa [hlength] using hdist.symm
  · rw [hrt]
    simpa [List.nodup_append, hnodup] using hnotMem
  · rw [hrt]
    simp only [List.map_append, List.map_cons, List.map_nil, List.mem_append, List.mem_singleton]
    by_cases hb : b = a
    · exact ⟨fun _ => .inr hb, fun _ => hb ▸ originReleased_of_holds hnew⟩
    · rw [(hothers b hb).released_iff, horigins b]
      simp [hb]
  · rw [hrt] at hx
    rw [List.getElem?_append] at hx
    split at hx
    next hd =>
      obtain ⟨q, hholds, hgroup⟩ := hpositions d x hx
      have hmem : x.origin ∈ s.rt.list.map fun x => x.origin := List.mem_map_of_mem (List.mem_of_getElem? hx)
      refine ⟨q, (hothers _ fun h => hnotMem (h ▸ hmem)).holds hholds, ?_⟩
      have hne : (t.houses.at (t.pumps.at q).house).group ≠ (t.houses.at (t.pumps.at p).house).group := fun h => by
        rw [mainGroup, h] at hgroup
        rw [mainGroup, hgroup] at hquiet
        cases hquiet
      rw [mainGroup, hgroups, Tab.at_put_other _ _ hne]
      exact hgroup
    next hd =>
      have hzero : d - s.rt.list.length = 0 := by
        by_contra h
        simp [h] at hx
      simp only [hzero, List.getElem?_cons_zero, Option.some.injEq] at hx
      obtain rfl : d = dist i s.rt.release := by omega
      subst hx
      refine ⟨p, hnew, ?_⟩
      rw [mainGroup, hgroups, Tab.at_put_same, indexAfter_dist]

/-- The position at the head of the list taken: its order is RELEASED no more, and its group alone leaves ARMED (R19,
R70). -/
theorem ListFrom.taken {x : Released} {rest : List Released} (hs : ListFrom t i s) (hlist : s.rt.list = x :: rest)
    (hlist' : s'.rt.list = rest) (hrelease : s'.rt.release = s.rt.release)
    (hothers : ∀ b, b ≠ x.origin → SameOrigin s s' b) (hgone : ¬ OriginReleased s' x.origin)
    (harmed : ∀ g h j, j ≠ i → s.psu.groups.at g = .armed h j → s'.psu.groups.at g = .armed h j) :
    ListFrom t (i + 1) s' := by
  obtain ⟨hbound, hlength, hnodup, horigins, hpositions⟩ := hs
  have hslots := t.map.ringSize.slots_le
  have hne : i ≠ s.rt.release := fun h => by
    rw [dist_eq_zero_iff.mpr h, hlist] at hlength
    cases hlength
  have hdist := dist_succ_left hne
  simp only [hlist, List.map_cons, List.nodup_cons] at hnodup
  obtain ⟨hhead, hnodup⟩ := hnodup
  simp only [hlist, List.length_cons] at hlength
  refine ⟨by rw [hrelease]; omega, by rw [hlist', hrelease]; omega, by rwa [hlist'], fun b => ?_, fun d y hy => ?_⟩
  · rw [hlist']
    by_cases hb : b = x.origin
    · subst hb
      exact ⟨fun h => absurd h hgone, fun h => absurd h hhead⟩
    · rw [(hothers b hb).released_iff, horigins b, hlist]
      simp [hb]
  · rw [hlist'] at hy
    have hlt : d < rest.length := (List.getElem?_eq_some_iff.mp hy).1
    obtain ⟨p, hholds, hgroup⟩ := hpositions (d + 1) y (by rw [hlist]; exact hy)
    have hmem : y.origin ∈ rest.map fun x => x.origin := List.mem_map_of_mem (List.mem_of_getElem? hy)
    refine ⟨p, (hothers _ fun h => hhead (h ▸ hmem)).holds hholds, ?_⟩
    rw [indexAfter_succ]
    refine harmed _ _ _ (fun h => ?_) hgroup
    have hself := dist_indexAfter i (d := d + 1) (by omega)
    rw [h, dist_self] at hself
    omega

end

/-! ### The internal store -/

/-- The same entries are RELEASED, with the same orders and grant times. -/
def SameStore (s s' : State) : Prop := ∀ e o g, s'.ilu.store.at e = .released o g ↔ s.ilu.store.at e = .released o g

section
variable {t : Tables} {s s' s'' : State}

theorem SameStore.refl : SameStore s s := fun _ _ _ => .rfl

theorem SameStore.trans (h : SameStore s s') (h' : SameStore s' s'') : SameStore s s'' :=
  fun e o g => (h' e o g).trans (h e o g)

theorem SameStore.of_eq (h : s'.ilu.store = s.ilu.store) : SameStore s s' := fun e o g => by rw [h]

/-- An entry that is not RELEASED written with one that is not. -/
theorem SameStore.of_put {e : Fin 8} {x : StoreEntry} (hstore : s'.ilu.store = s.ilu.store.put e x)
    (h : ∀ o g, s.ilu.store.at e ≠ .released o g) (hx : ∀ o g, x ≠ .released o g) : SameStore s s' := by
  intro f o g
  rw [hstore, Tab.at_put]
  split
  next hf => exact ⟨fun h' => absurd h' (hx o g), fun h' => absurd (hf ▸ h') (h o g)⟩
  next => rfl

theorem ListKept.of_store (h : SameStore s s') (hob : s'.ob = s.ob) (hrt : s'.rt = s.rt)
    (hgroups : s'.psu.groups = s.psu.groups) : ListKept s s' :=
  ⟨fun a => by cases a <;> simp [SameOrigin, hob, h _ _ _], by rw [hrt], by rw [hrt], by rw [hrt],
    fun g x i hg => by rwa [hgroups]⟩

theorem putPump_store (p : Fin 32) (r : PumpRec) (s : State) : (putPump p r s).ilu.store = s.ilu.store := by
  rw [putPump_ilu]
  split <;> rfl

theorem sameStore_raiseEntry {e : Fin 8} (he : s.ilu.store.at e = .free) (p : Fin 32) (c : Cause) :
    SameStore s (raiseEntry e p c s) := by
  refine .of_put (e := e) (by rw [raiseEntry_ilu]) (fun o g => by simp [he]) (fun o g => by simp)

theorem sameStore_oweStop (p : Fin 32) (c : Cause) : SameStore s (oweStop p c s) := .of_eq (by simp [oweStop_eq])

theorem sameStore_placeStop (p : Fin 32) (c : Cause) : SameStore s (placeStop p c s) := by
  simp only [placeStop]
  split
  next => exact sameStore_oweStop p c
  next e he =>
    split
    next => exact sameStore_oweStop p c
    next => exact sameStore_raiseEntry (freeEntry_free he) p c

theorem sameStore_evaluatePump (t : Tables) (p : Fin 32) : SameStore s (evaluatePump t p s) := by
  simp only [evaluatePump]
  repeat' split
  all_goals first
    | exact .refl
    | exact sameStore_placeStop p _

theorem sameStore_timedStop (p : Fin 32) : SameStore s (timedStop p s) := by
  simp only [timedStop]
  split
  next => exact .refl
  next => exact sameStore_placeStop p _

theorem sameStore_takeInFlag (t : Tables) {e : Fin 8} (he : s.ilu.store.at e = .free) (p : Fin 32) (c : Cause) :
    SameStore s (takeInFlag t e p c s) := by
  rcases takeInFlag_cases t e p c s with ⟨d, h⟩ | h <;> rw [h]
  · exact sameStore_raiseEntry he p d
  · exact .of_eq (by simp [clearOwed])

theorem sameStore_takeIn (t : Tables) : SameStore s (takeIn t s) := by
  have hrounds (n : Nat) {s : State} : SameStore s (takeInRounds t n s) := by
    induction n generalizing s with
    | zero => exact .refl
    | succ n ih =>
      simp only [takeInRounds]
      split
      next e p he _ =>
        split
        next c _ => exact (sameStore_takeInFlag t (freeEntry_free he) p c).trans ih
        next => exact .refl
      next => exact .refl
  simp only [takeIn]
  split
  next => exact (hrounds 32).trans (.of_eq (by simp))
  next => exact .refl

/-- An entry freed: no other comes or goes among the RELEASED ones. -/
theorem freeStoreEntry_released (t : Tables) (e : Fin 8) (s : State) (f : Fin 8) (o : InternalOrder) (g : Epoch) :
    (freeStoreEntry t e s).ilu.store.at f = .released o g ↔ f ≠ e ∧ s.ilu.store.at f = .released o g := by
  rw [freeStoreEntry, sameStore_takeIn t f o g, State.setIlu_ilu, Tab.at_put]
  split
  next h => simp [h]
  next h => simp [h]

theorem sameStore_freeStoreEntry (t : Tables) {e : Fin 8} (he : ∀ o g, s.ilu.store.at e ≠ .released o g) :
    SameStore s (freeStoreEntry t e s) := fun f o g => by
  rw [freeStoreEntry_released]
  exact ⟨fun h => h.2, fun h => ⟨fun hf => he o g (hf ▸ h), h⟩⟩

theorem sameStore_withdrawAll (t : Tables) (seq0 : Nat) : SameStore s (withdrawAll t seq0 s) := by
  have hfold (l : List (Fin 8)) {s : State} (hl : ∀ e ∈ l, ∀ o g, s.ilu.store.at e ≠ .released o g) :
      SameStore s (l.foldl (fun s' e => freeStoreEntry t e s') s) := by
    induction l generalizing s with
    | nil => exact .refl
    | cons e l ih =>
      have hfreed := sameStore_freeStoreEntry t (hl e (by simp))
      refine hfreed.trans (ih fun f hf o g h => ?_)
      exact hl f (List.mem_cons_of_mem e hf) o g ((hfreed f o g).mp h)
  refine hfold _ fun e he o g h => ?_
  obtain ⟨q, hq, -⟩ := mem_withdrawals.mp he
  rw [hq] at h
  cases h

theorem sameStore_dispatchHandedOver (t : Tables) (p : Fin 32) (a : Action) :
    SameStore s (dispatchHandedOver t p a s) := by
  have htaken : SameStore s (takeInDispatched t p s) := by
    simp only [takeInDispatched]
    split
    next c e _ he => exact (sameStore_takeInFlag t (freeEntry_free he) p c).trans (.of_eq (by simp))
    next => exact .refl
  have hevaluated {y : State} (h : SameStore s y) :
      SameStore s (if (y.psu.pumps.at p).state = .lockout then evaluatePump t p y else y) := by
    split
    next => exact h.trans (sameStore_evaluatePump t p)
    next => exact h
  cases a
  · exact hevaluated htaken
  · exact hevaluated .refl

/-! ### What keeps the list -/

theorem listKept_requestPass : ListKept s (requestPass s) := .of_eq (by simp) (by simp) (by simp) (by simp)

theorem reclaimRounds_rt (t : Tables) (n : Nat) (s : State) :
    (reclaimRounds t n s).rt = { s.rt with reclaim := (reclaimRounds t n s).rt.reclaim } := by
  induction n generalizing s with
  | zero => rfl
  | succ n ih =>
    simp only [reclaimRounds]
    split
    next => exact ih _
    next => rfl

/-- Reclaim moves its own index alone (R11). -/
theorem reclaimAdvance_rt (t : Tables) (s : State) :
    (reclaimAdvance t s).rt = { s.rt with reclaim := (reclaimAdvance t s).rt.reclaim } := reclaimRounds_rt t 64 s

theorem listKept_reclaimAdvance (t : Tables) (s : State) : ListKept s (reclaimAdvance t s) := by
  refine ⟨fun a => ?_, by rw [reclaimAdvance_rt], by rw [reclaimAdvance_rt], by rw [reclaimAdvance_rt],
    fun g h i hg => by simpa using hg⟩
  cases a with
  | internal e => exact fun o g => by simp
  | host k =>
    rcases reclaimAdvance_ob t s k with h | ⟨hfinished, h⟩
    · simp [SameOrigin, h]
    · refine .of_not_released (fun hr => ?_) (by simp [h, Entry.reset])
      rw [hr] at hfinished
      cases hfinished

/-- One entry written that stays out of RELEASED, or stays in it with its order and grant time. -/
theorem listKept_putEntry {k : Fin 64} {e : Entry} (hstate : e.state = .released ↔ (s.ob.at k).state = .released)
    (hfields : (s.ob.at k).state = .released → e.grant = (s.ob.at k).grant ∧ e.order = (s.ob.at k).order) :
    ListKept s (putEntry k e s) := by
  refine ⟨fun a => ?_, rfl, rfl, rfl, fun _ _ _ h => h⟩
  cases a with
  | internal f => exact fun o g => .rfl
  | host j =>
    simp only [SameOrigin, putEntry_ob, Tab.at_put]
    split
    next h => rw [h]; exact ⟨hstate, hfields⟩
    next => exact ⟨.rfl, fun _ => ⟨rfl, rfl⟩⟩

theorem listKept_cancelled {k : Fin 64} (h : (s.ob.at k).state = .waiting) (r : Reason) :
    ListKept s (putEntry k (leaveWaiting .cancelled r (s.ob.at k)) s) :=
  listKept_putEntry (by simp [leaveWaiting, h]) (by simp [h])

theorem listKept_cancelSlot (t : Tables) (k : Fin 64) (s : State) : ListKept s (cancelSlot t k s) := by
  have hlate : ListKept s (raiseFlag .lateCancel (putEntry k { s.ob.at k with late := true } s)) :=
    (listKept_putEntry (e := { s.ob.at k with late := true }) Iff.rfl fun _ => ⟨rfl, rfl⟩).trans
      (.of_eq (by simp) (by simp) (by simp) (by simp))
  simp only [cancelSlot]
  split
  next h => exact ((listKept_cancelled h _).trans (listKept_reclaimAdvance t _)).trans listKept_requestPass
  next => exact hlate
  next => exact hlate
  all_goals exact .refl

theorem listKept_sweepVisit (t : Tables) (s : State) : ListKept s (sweepVisit t s) := by
  have hended (y : State) (h : ListKept s y) (x : Csu) : ListKept s (endSweepIfDone (y.setCsu x)) :=
    h.trans (.of_eq (by simp) (by simp) (by simp) (by simp))
  refine hended _ ?_ _
  split
  next h => exact ((listKept_cancelled h.1 _).trans (listKept_reclaimAdvance t _)).trans listKept_requestPass
  next => exact .refl

/-- The Order Book rewritten with the same entries RELEASED, the internal store, the indexes and the groups standing. -/
theorem listKept_of_entries (hob : ∀ k, SameOrigin s s' (.host k)) (hstore : s'.ilu.store = s.ilu.store)
    (hrt : s'.rt = s.rt) (hgroups : s'.psu.groups = s.psu.groups) : ListKept s s' := by
  refine ⟨fun a => ?_, by rw [hrt], by rw [hrt], by rw [hrt], fun g h i hg => by rwa [hgroups]⟩
  cases a with
  | host k => exact hob k
  | internal e => exact fun o g => by rw [hstore]

theorem listKept_startSweep (t : Tables) (kind : SweepKind) (s : State) : ListKept s (startSweep t kind s) := by
  refine listKept_of_entries (fun k => ?_) (by simp) (by simp) (by simp)
  simp only [SameOrigin, startSweep_ob]
  split <;> exact ⟨.rfl, fun _ => ⟨rfl, rfl⟩⟩

theorem listKept_recordSlotWord (k : Fin 64) (w : Fin 6) (v : Word) (s : State) : ListKept s (recordSlotWord k w v s) :=
  listKept_putEntry Iff.rfl fun _ => ⟨rfl, rfl⟩

theorem listKept_expireLate (s : State) : ListKept s (expireLate s) := by
  refine listKept_of_entries (fun k => ?_) (by simp) (by simp) (by simp)
  by_cases h : lateOrder s.cbu.now (s.ob.at k) = true
  · have hstate := waiting_of_lateOrder h
    exact .of_not_released (by simp [hstate]) (by simp [expireLate_ob, h, leaveWaiting])
  · simp [SameOrigin, expireLate_ob, h]

theorem listKept_recordJudgements (t : Tables) (s : State) : ListKept s (recordJudgements t s) := by
  refine listKept_of_entries (fun k => ?_) (by simp) (by simp) (by simp)
  cases ho : waitingOrder (s.ob.at k) with
  | none => simp [SameOrigin, recordJudgements_ob, judgedEntry, ho]
  | some o =>
    have hstate := (waitingOrder_eq_some.mp ho).1
    refine .of_not_released (by simp [hstate]) ?_
    simp only [recordJudgements_ob, judgedEntry, ho]
    split <;> simp [hstate, leaveWaiting]

theorem listKept_withdrawAll (t : Tables) (seq0 : Nat) (s : State) : ListKept s (withdrawAll t seq0 s) :=
  .of_store (sameStore_withdrawAll t seq0) (by simp) (by simp) (by simp)

theorem listKept_takeRunEnd (p : Fin 32) (s : State) : ListKept s (takeRunEnd p s) := by
  simp only [takeRunEnd]
  split
  next =>
    refine (ListKept.of_store ?_ (by simp) (by simp) (by simp)).trans listKept_requestPass
    exact (SameStore.of_eq (putPump_store p _ s)).trans (sameStore_timedStop p)
  next => exact .refl

theorem listKept_takeConfirmExpiry (p : Fin 32) (s : State) : ListKept s (takeConfirmExpiry p s) := by
  simp only [takeConfirmExpiry]
  split
  next => exact .of_eq (by simp) (by simp [putPump_store]) (by simp) (by simp)
  next => exact .refl

/-- A group in GUARD goes QUIET; no other changes (R71). -/
theorem listKept_takeGuardExpiry (g : Fin 8) (s : State) : ListKept s (takeGuardExpiry g s) := by
  refine ⟨fun _ => .of_eq (by simp) (by simp), by simp, by simp, by simp, fun f h i hf => ?_⟩
  simp only [takeGuardExpiry]
  split
  next hdue =>
    have hne : f ≠ g := fun e => by simp [← e, hf, guardDue] at hdue
    simpa [Tab.at_put_other _ _ hne] using hf
  next => exact hf

theorem secondBoundary_group (s : State) (g : Fin 8) : (secondBoundary s).psu.groups.at g =
    judgeGroupTimer (clockEffects s).cbu.now (s.psu.groups.at g) := by
  have hpsu : (secondBoundary s).psu = (psuBoundary (hourEffects (clockEffects s))).psu := by simp [secondBoundary]
  have hgroups : (hourEffects (clockEffects s)).psu.groups = s.psu.groups := by
    simp only [hourEffects]
    repeat' split
    all_goals simp [reloadAllowances]
  rw [hpsu]
  simp [psuBoundary, hgroups]

theorem listKept_secondBoundary (s : State) : ListKept s (secondBoundary s) := by
  refine ⟨fun _ => .of_eq (by simp) (by simp), by simp, by simp, by simp, fun g h i hg => ?_⟩
  rw [secondBoundary_group, hg]
  rfl

theorem listKept_acceptClearLockout (t : Tables) (s : State) : ListKept s (acceptClearLockout t s) :=
  .of_eq (by simp) (by simp [acceptClearLockout, putPump_store]) (by simp) (by simp [acceptClearLockout])

/-! ### Submits and reports -/

/-- What admission leaves: the slots of its indexes WAITING or REFUSED, every other entry as it was (R34). -/
theorem admitFrom_ob (t : Tables) (n : Nat) (i : Word) (s : State) (k : Fin 64) :
    (admitFrom t n i s).ob.at k = s.ob.at k
      ∨ (((admitFrom t n i s).ob.at k).state ≠ .released
          ∧ ∃ d, d < n ∧ slotOf t.map.ringSize (indexAfter i d) = k) := by
  induction n with
  | zero => exact .inl rfl
  | succ n ih =>
    rw [admitFrom_succ]
    by_cases hk : slotOf t.map.ringSize (indexAfter i n) = k
    · refine .inr ⟨?_, n, by omega, hk⟩
      rcases admitIndex_ob t (indexAfter i n) (admitFrom t n i s) with ⟨o, -, hob⟩ | ⟨r, -, hob⟩ <;>
        simp [hob, ← hk]
    · have hsame : (admitIndex t (indexAfter i n) (admitFrom t n i s)).ob.at k = (admitFrom t n i s).ob.at k := by
        rcases admitIndex_ob t (indexAfter i n) (admitFrom t n i s) with ⟨o, -, hob⟩ | ⟨r, -, hob⟩ <;>
          rw [hob, Tab.at_put_other _ _ (Ne.symm hk)]
      rw [hsame]
      exact ih.imp_right fun ⟨hstate, d, hd, hslot⟩ => ⟨hstate, d, by omega, hslot⟩

/-- A legal submit write admits FREE slots alone (R5, R11). -/
theorem free_of_legalSubmit {v : Word} (hopen : RingOpen t s) (hlegal : legalSubmit t s v = true) {d : Nat}
    (hd : d < dist s.rt.submit v) : (s.ob.at (slotOf t.map.ringSize (indexAfter s.rt.submit d))).state = .free := by
  simp only [legalSubmit, decide_eq_true_eq] at hlegal
  have hbound := hopen.bound
  rw [← indexAfter_dist s.rt.reclaim s.rt.submit, indexAfter_indexAfter]
  exact (hopen.free (dist s.rt.reclaim s.rt.submit + d) (by omega)).mpr (by omega)

theorem listKept_submitAcknowledged {v : Word} (hopen : RingOpen t s) (hlegal : legalSubmit t s v = true) :
    ListKept s (submitAcknowledged t v s) := by
  simp only [submitAcknowledged]
  split
  next => exact .refl
  next =>
    refine (ListKept.trans ?_ (listKept_reclaimAdvance t _)).trans listKept_requestPass
    refine ⟨fun a => ?_, by simp, by simp, by simp, fun g h i hg => by simpa using hg⟩
    cases a with
    | internal e => exact fun o g => by simp
    | host k =>
      rcases admitFrom_ob t (dist s.rt.submit v) s.rt.submit (s.setRt { s.rt with submit := v }) k with
        h | ⟨hstate, d, hd, hslot⟩
      · simp [SameOrigin, h]
      · refine .of_not_released (fun hr => ?_) hstate
        rw [← hslot, free_of_legalSubmit hopen hlegal hd] at hr
        cases hr

theorem listKept_evaluatePump (t : Tables) (p : Fin 32) (s : State) : ListKept s (evaluatePump t p s) :=
  .of_store (sameStore_evaluatePump t p) (by simp) (by simp) (by simp)

theorem listKept_offerCommit (t : Tables) (h : Fin 12) (p : Fin 32) (s : State) : ListKept s (offerCommit t h s p) := by
  refine ListKept.trans ?_ (listKept_evaluatePump t p _)
  split
  next => exact .of_eq (by simp) (by simp [commitPump, putPump_store]) (by simp) (by simp [commitPump])
  next => exact .refl

theorem listKept_sequenceAcknowledged (t : Tables) (h : Fin 12) (q : Word) (s : State) :
    ListKept s (sequenceAcknowledged t h q s) := by
  have hoffers (l : List (Fin 32)) {s : State} : ListKept s (l.foldl (offerCommit t h) s) := by
    induction l generalizing s with
    | nil => exact .refl
    | cons p l ih => exact (listKept_offerCommit t h p s).trans ih
  simp only [sequenceAcknowledged]
  split
  next => exact .of_eq (by simp) (by simp) (by simp) (by simp)
  next =>
    split
    next => exact .of_eq (by simp) (by simp) (by simp) (by simp)
    next =>
      have hfresh : ListKept s (freshen t h (applyReport t h s)) := .of_eq (by simp) (by simp) (by simp) (by simp)
      have hoffered := hfresh.trans (hoffers (Tab.numbers 32 (offered t h)))
      exact hoffered.trans (.of_eq (by simp [commitReport]) (by simp [commitReport]) (by simp [commitReport])
        (by simp [commitReport]))

/-! ### Dispatches -/

/-- A dispatch moves out of ARMED no group but one armed with its position (R70). -/
theorem dispatchPump_armed (t : Tables) (p : Fin 32) (a : Action) (i : Word) (s : State) (g : Fin 8) (h : Fin 12)
    (j : Word) (hj : j ≠ i) (hg : s.psu.groups.at g = .armed h j) :
    (dispatchPump t p a i s).psu.groups.at g = .armed h j := by
  have hmoved (y : State) (hy : y.psu.groups.at g = .armed h j) :
      (groupDispatched t p i y).psu.groups.at g = .armed h j := by
    simp only [groupDispatched]
    split
    next h' i' harmed =>
      split
      next hi =>
        have hne : g ≠ groupOfPump t p := fun e => by
          rw [groupRec, ← e, hy] at harmed
          cases harmed
          exact hj hi.symm
        simpa [Tab.at_put_other _ _ hne] using hy
      next => exact hy
    all_goals exact hy
  have hpump : (pumpDispatched t p a s).psu.groups = s.psu.groups := by
    cases a <;> simp [pumpDispatched]
  simp only [dispatchPump, dispatchHandedOver_keeps]
  exact hmoved _ (by rw [hpump]; exact hg)

theorem sameStore_dispatchPump (t : Tables) (p : Fin 32) (a : Action) (i : Word) : SameStore s (dispatchPump t p a i s) := by
  refine SameStore.trans (.of_eq ?_) (sameStore_dispatchHandedOver t p a)
  rw [(groupDispatched_keeps _ _ _ _).2.2.2.2.2.2.1]
  cases a <;> simp [pumpDispatched, putPump_store]

theorem entryDispatched_ob (k : Fin 64) (s : State) (j : Fin 64) : (entryDispatched k s).ob.at j =
    if j = k ∧ (s.ob.at k).state = .released then { s.ob.at k with state := .dispatched, reason := .none }
    else s.ob.at j := by
  simp only [entryDispatched]
  split
  next h => simp [h, Tab.at_put]
  next h => simp [h]

/-- What a dispatch notice leaves: its origin's order RELEASED no more, every other as it was (R39, R127). -/
theorem dispatchNotice_origins (t : Tables) (i : Word) (a : Origin) (s : State) :
    (∀ b, b ≠ a → SameOrigin s (dispatchNotice t i a s) b) ∧ ¬ OriginReleased (dispatchNotice t i a s) a := by
  cases a with
  | host k =>
    have hdispatched : (∀ b, b ≠ .host k → SameOrigin s (entryDispatched k s) b)
        ∧ ((entryDispatched k s).ob.at k).state ≠ .released := by
      refine ⟨fun b hb => ?_, ?_⟩
      · cases b with
        | internal e => exact fun o g => by simp
        | host j =>
          have hne : j ≠ k := fun h => hb (h ▸ rfl)
          simp [SameOrigin, entryDispatched_ob, hne]
      · rw [entryDispatched_ob]
        split
        next => simp
        next h => exact fun hr => h ⟨rfl, hr⟩
    simp only [dispatchNotice]
    split
    next o _ =>
      refine ⟨fun b hb => (hdispatched.1 b hb).trans ?_, ?_⟩
      · cases b with
        | host j => simp [SameOrigin]
        | internal e => exact sameStore_dispatchPump t _ _ i e
      · simpa [OriginReleased] using hdispatched.2
    next => exact hdispatched
  | internal e =>
    have hfreed (b : Origin) (hb : b ≠ .internal e) : SameOrigin s (freeStoreEntry t e s) b := by
      cases b with
      | host j => simp [SameOrigin]
      | internal f =>
        have hne : f ≠ e := fun h => hb (h ▸ rfl)
        exact fun o g => by simp [freeStoreEntry_released, hne]
    simp only [dispatchNotice]
    split
    next o _ =>
      have hstore := sameStore_dispatchPump (s := freeStoreEntry t e s) t o.pump .stop i
      refine ⟨fun b hb => (hfreed b hb).trans ?_, ?_⟩
      · cases b with
        | host j => simp [SameOrigin]
        | internal f => exact hstore f
      · rintro ⟨q, g, hq⟩
        exact ((freeStoreEntry_released t e s e q g).mp ((hstore e q g).mp hq)).1 rfl
    next hnone =>
      refine ⟨fun _ _ => .refl, ?_⟩
      rintro ⟨q, g, hq⟩
      rw [hq] at hnone
      cases hnone

theorem dispatchNotice_armed (t : Tables) (i : Word) (a : Origin) (s : State) (g : Fin 8) (h : Fin 12) (j : Word)
    (hj : j ≠ i) (hg : s.psu.groups.at g = .armed h j) : (dispatchNotice t i a s).psu.groups.at g = .armed h j := by
  cases a with
  | host k =>
    simp only [dispatchNotice]
    split
    next => exact dispatchPump_armed t _ _ i _ g h j hj (by simpa using hg)
    next => simpa using hg
  | internal e =>
    simp only [dispatchNotice]
    split
    next => exact dispatchPump_armed t _ _ i _ g h j hj (by simpa using hg)
    next => exact hg

/-- The positions of a legal take write go one after another (R8, R19). -/
theorem ListFrom.takePositions {i : Word} {n : Nat} (hn : n ≤ dist i s.rt.release) (hs : ListFrom t i s) :
    ListFrom t (indexAfter i n) (takePositions t n i s) := by
  induction n generalizing i s with
  | zero => rwa [indexAfter_zero]
  | succ n ih =>
    have hlength := hs.length
    simp only [Machine.takePositions]
    split
    next hnil =>
      rw [hnil, List.length_nil] at hlength
      omega
    next x rest hlist =>
      obtain ⟨hothers, hgone⟩ := dispatchNotice_origins t i x.origin (s.setRt { s.rt with list := rest })
      have hne : i ≠ s.rt.release := fun h => by
        have := dist_eq_zero_iff.mpr h
        omega
      have hdist := dist_succ_left hne
      have hnext : ListFrom t (i + 1) (dispatchNotice t i x.origin (s.setRt { s.rt with list := rest })) :=
        hs.taken hlist (by simp) (by simp) (fun b hb => SameOrigin.trans (.of_eq rfl rfl) (hothers b hb)) hgone
          fun g h j hj hg => dispatchNotice_armed t i _ _ g h j hj hg
      rw [← indexAfter_succ]
      exact ih (by simp only [dispatchNotice_keeps, State.setRt_rt]; omega) hnext

theorem takePositions_take (t : Tables) (n : Nat) (i : Word) (s : State) :
    (takePositions t n i s).rt.take = s.rt.take := by
  induction n generalizing i s with
  | zero => rfl
  | succ n ih =>
    simp only [takePositions]
    split
    next => rfl
    next => rw [ih]; simp

/-- A legal take write leaves the list from its value on. -/
theorem ListFrom.takeAcknowledged {v : Word} (hlegal : legalTake s v = true) (hs : ListFrom t s.rt.take s) :
    ListFrom t (takeAcknowledged t v s).rt.take (takeAcknowledged t v s) := by
  simp only [legalTake, decide_eq_true_eq] at hlegal
  simp only [Machine.takeAcknowledged]
  split
  next => exact hs
  next =>
    have hstart : ListFrom t s.rt.take (s.setRt { s.rt with take := v }) := by
      obtain ⟨h1, h2, h3, h4, h5⟩ := hs
      exact ⟨h1, h2, h3, h4, h5⟩
    have htaken := ListFrom.takePositions (s := s.setRt { s.rt with take := v }) (n := dist s.rt.take v) hlegal hstart
    rw [indexAfter_dist] at htaken
    have hkept := (listKept_reclaimAdvance t
      (Machine.takePositions t (dist s.rt.take v) s.rt.take (s.setRt { s.rt with take := v }))).trans listKept_requestPass
    rw [hkept.take, takePositions_take]
    exact hkept.listFrom htaken

/-! ### Releases -/

theorem groupReleased_groups {p : Fin 32} (hquiet : mainGroup t s p = .quiet) (i : Word) :
    (groupReleased t p i s).psu.groups =
      s.psu.groups.put (t.houses.at (t.pumps.at p).house).group (.armed (t.pumps.at p).house i) := by
  have h : groupRec t s p = .quiet := hquiet
  simp only [groupReleased, h]
  rfl

theorem pumpReleased_groups (p : Fin 32) (a : Action) (run : Nat) (s : State) :
    (pumpReleased p a run s).psu.groups = s.psu.groups := by
  cases a <;> simp [pumpReleased]

theorem pumpReleased_store (p : Fin 32) (a : Action) (run : Nat) (s : State) :
    (pumpReleased p a run s).ilu.store = s.ilu.store := by
  cases a <;> simp [pumpReleased, putPump_store]

theorem releaseHost_store (t : Tables) (k : Fin 64) (o : Order) (s : State) :
    (releaseHost t k o s).ilu.store = s.ilu.store := by
  simp [releaseHost, pumpReleased_store]

theorem releaseInternal_store (t : Tables) (e : Fin 8) (o : InternalOrder) (s : State) :
    (releaseInternal t e o s).ilu.store = s.ilu.store.put e (.released o s.cbu.now) := by
  simp [releaseInternal, pumpReleased_store, markEntryReleased]

theorem releaseHost_groups {k : Fin 64} {o : Order} (hquiet : mainGroup t s o.pump = .quiet) :
    (releaseHost t k o s).psu.groups =
      s.psu.groups.put (t.houses.at (t.pumps.at o.pump).house).group (.armed (t.pumps.at o.pump).house s.rt.release) := by
  rw [releaseHost, groupReleased_groups (by simpa [mainGroup, pumpReleased_groups] using hquiet), pumpReleased_groups]
  simp

theorem releaseInternal_groups {e : Fin 8} {o : InternalOrder} (hquiet : mainGroup t s o.pump = .quiet) :
    (releaseInternal t e o s).psu.groups =
      s.psu.groups.put (t.houses.at (t.pumps.at o.pump).house).group (.armed (t.pumps.at o.pump).house s.rt.release) := by
  rw [releaseInternal, groupReleased_groups (by simpa [mainGroup, pumpReleased_groups] using hquiet), pumpReleased_groups]
  simp

theorem ListFrom.releaseHost {i : Word} {k : Fin 64} {o : Order} (hs : ListFrom t i s)
    (hroom : dist i s.rt.release < t.map.ringSize.slots) (hk : k.val < t.map.ringSize.slots)
    (ho : waitingOrder (s.ob.at k) = some o) (hquiet : mainGroup t s o.pump = .quiet) :
    ListFrom t i (releaseHost t k o s) := by
  obtain ⟨hstate, horder⟩ := waitingOrder_eq_some.mp ho
  refine hs.released (a := .host k) (g := s.cbu.now) (p := o.pump) hroom (releaseHost_rt t k o s) ?_ (fun b hb => ?_) ?_ hquiet
    (releaseHost_groups hquiet)
  · simp [OriginReleased, hstate]
  · cases b with
    | internal f => exact fun q g => by rw [releaseHost_store]
    | host j =>
      have hne : j ≠ k := fun h => hb (h ▸ rfl)
      simp [SameOrigin, releaseHost_ob, Tab.at_put_other _ _ hne]
  · exact ⟨hk, by simp [releaseHost_ob, leaveWaiting], by simp [releaseHost_ob],
      o, by simpa [releaseHost_ob, leaveWaiting] using horder, rfl⟩

theorem ListFrom.releaseInternal {i : Word} {e : Fin 8} {o : InternalOrder} (hs : ListFrom t i s)
    (hroom : dist i s.rt.release < t.map.ringSize.slots) (he : s.ilu.store.at e = .waiting o)
    (hquiet : mainGroup t s o.pump = .quiet) : ListFrom t i (releaseInternal t e o s) := by
  refine hs.released (a := .internal e) (g := s.cbu.now) (p := o.pump) hroom (releaseInternal_rt t e o s) ?_ (fun b hb => ?_)
    ?_ hquiet (releaseInternal_groups hquiet)
  · simp [OriginReleased, he]
  · cases b with
    | host j => simp [SameOrigin]
    | internal f =>
      have hne : f ≠ e := fun h => hb (h ▸ rfl)
      exact fun q g => by rw [releaseInternal_store, Tab.at_put_other _ _ hne]
  · exact ⟨o, by simp [releaseInternal_store], rfl⟩

/-! ### Rounds and the pass -/

/-- An eligible host order finds its group QUIET and room in the list (R84, R88). -/
theorem quiet_room_of_eligible {k : Fin 64} {o : Order} (h : judgeHost t s k o = .eligible) :
    mainGroup t s o.pump = .quiet ∧ hasRoom t s = true := by
  obtain ⟨-, -, -, ⟨-, h⟩ | ⟨-, h⟩⟩ := judgeHost_eligible_iff.mp h
  · obtain ⟨-, h⟩ := judgeStart_eligible_iff.mp h
    obtain ⟨-, -, -, -, hquiet, -, -, -, -, -, hroom⟩ := judgeStoppedStart_eligible_iff.mp h
    exact ⟨groupQuiet_iff.mp hquiet, hroom⟩
  · obtain ⟨-, -, hquiet, hroom⟩ := judgeStop_eligible_iff.mp h
    exact ⟨groupQuiet_iff.mp hquiet, hroom⟩

theorem quiet_room_of_internalEligible {o : InternalOrder} (h : internalEligible t s o = true) :
    mainGroup t s o.pump = .quiet ∧ hasRoom t s = true := by
  simp only [internalEligible, Bool.and_eq_true] at h
  obtain ⟨⟨⟨-, hquiet⟩, hroom⟩, -⟩ := h
  exact ⟨groupQuiet_iff.mp hquiet, hroom⟩

theorem releaseRound_take (t : Tables) (seq0 : Nat) (s : State) : (releaseRound t seq0 s).state.rt.take = s.rt.take := by
  rcases releaseRound_cases t seq0 s with ⟨e, o, -, h, -⟩ | ⟨-, k, o, -, h, -⟩ | ⟨-, -, h, -⟩ <;> rw [h] <;>
    simp [releaseInternal_rt, releaseHost_rt]

/-- Each way a round ends appends at most one position, for an order that it found eligible (R76, R77). -/
theorem ListFrom.releaseRound (seq0 : Nat) (hs : ListFrom t s.rt.take s) :
    ListFrom t s.rt.take (releaseRound t seq0 s).state := by
  have hjudged := (listKept_withdrawAll t seq0 s).listFrom hs
  have hwritten := (listKept_recordJudgements t (withdrawAll t seq0 s)).listFrom hjudged
  have hroom (h : hasRoom t (withdrawAll t seq0 s) = true) : dist s.rt.take
      (recordJudgements t (withdrawAll t seq0 s)).rt.release < t.map.ringSize.slots := by
    simpa [hasRoom] using h
  rcases releaseRound_cases t seq0 s with ⟨e, o, hwin, h, -⟩ | ⟨-, k, o, hwin, h, -⟩ | ⟨-, -, h, -⟩ <;> rw [h]
  · obtain ⟨⟨hwaiting, -⟩, heligible⟩ := mem_internalCandidates.mp (mem_of_internalWinner hwin)
    obtain ⟨hquiet, hlist⟩ := quiet_room_of_internalEligible heligible
    exact hwritten.releaseInternal (hroom hlist) (by simpa using hwaiting) (by simpa [mainGroup] using hquiet)
  · obtain ⟨hk, -, heligible⟩ := mem_hostCandidates.mp (hostWinner_eq_some hwin).1
    obtain ⟨hquiet, hlist⟩ := quiet_room_of_eligible heligible
    exact hwritten.releaseHost (hroom hlist) hk (waitingOrder_of_hostWinner hwin) (by simpa [mainGroup] using hquiet)
  · exact hwritten

theorem ListFrom.releaseRounds (seq0 n : Nat) (hs : ListFrom t s.rt.take s) :
    (releaseRounds t seq0 n s).1.rt.take = s.rt.take ∧ ListFrom t s.rt.take (releaseRounds t seq0 n s).1 := by
  induction n generalizing s with
  | zero => exact ⟨rfl, hs⟩
  | succ n ih =>
    have hround := hs.releaseRound seq0
    have htake := releaseRound_take t seq0 s
    simp only [Machine.releaseRounds]
    split
    next =>
      rw [← htake] at hround ⊢
      exact ih hround
    next => exact ⟨htake, hround⟩

theorem ListFrom.releasePass (hs : ListFrom t s.rt.take s) :
    ListFrom t (releasePass t s).rt.take (releasePass t s) := by
  have hexpired := listKept_expireLate s
  have hstart : ListFrom t (expireLate s).rt.take (expireLate s) := hexpired.take ▸ hexpired.listFrom hs
  obtain ⟨htake, hrounds⟩ := hstart.releaseRounds s.ilu.nextSeq 73
  rw [← htake] at hrounds
  simp only [Machine.releasePass]
  generalize Machine.releaseRounds t s.ilu.nextSeq 73 (expireLate s) = r at hrounds ⊢
  have hkept := listKept_reclaimAdvance t r.1
  split
  next => exact hkept.take ▸ hkept.listFrom hrounds
  next => exact hrounds

/-- The indexes that a pass does not move, and the list that it only appends to (R12). -/
structure ListGrown (s s' : State) : Prop where
  list : ∃ more, s'.rt.list = s.rt.list ++ more
  take : s'.rt.take = s.rt.take
  submit : s'.rt.submit = s.rt.submit

theorem ListGrown.trans (h : ListGrown s s') (h' : ListGrown s' s'') : ListGrown s s'' := by
  obtain ⟨more, hmore⟩ := h.list
  obtain ⟨more', hmore'⟩ := h'.list
  exact ⟨⟨more ++ more', by rw [hmore', hmore, List.append_assoc]⟩, h'.take.trans h.take, h'.submit.trans h.submit⟩

theorem ListGrown.of_rt_eq (h : s'.rt = s.rt) : ListGrown s s' := ⟨⟨[], by simp [h]⟩, by rw [h], by rw [h]⟩

theorem listGrown_releaseRound (t : Tables) (seq0 : Nat) (s : State) : ListGrown s (releaseRound t seq0 s).state := by
  rcases releaseRound_cases t seq0 s with ⟨e, o, -, h, -⟩ | ⟨-, k, o, -, h, -⟩ | ⟨-, -, h, -⟩ <;> rw [h]
  · exact ⟨⟨_, by simp [releaseInternal_rt]; rfl⟩, by simp [releaseInternal_rt], by simp [releaseInternal_rt]⟩
  · exact ⟨⟨_, by simp [releaseHost_rt]; rfl⟩, by simp [releaseHost_rt], by simp [releaseHost_rt]⟩
  · exact .of_rt_eq (by simp)

theorem listGrown_releaseRounds (t : Tables) (seq0 n : Nat) (s : State) :
    ListGrown s (releaseRounds t seq0 n s).1 := by
  induction n generalizing s with
  | zero => exact .of_rt_eq rfl
  | succ n ih =>
    simp only [releaseRounds]
    split
    next => exact (listGrown_releaseRound t seq0 s).trans (ih _)
    next => exact listGrown_releaseRound t seq0 s

theorem listGrown_reclaimAdvance (t : Tables) (s : State) : ListGrown s (reclaimAdvance t s) :=
  ⟨⟨[], by rw [reclaimAdvance_rt]; simp⟩, by rw [reclaimAdvance_rt], by rw [reclaimAdvance_rt]⟩

theorem listGrown_releasePass (t : Tables) (s : State) : ListGrown s (releasePass t s) := by
  have hgrown := (ListGrown.of_rt_eq (s := s) (s' := expireLate s) (by simp)).trans
    (listGrown_releaseRounds t s.ilu.nextSeq 73 (expireLate s))
  simp only [releasePass]
  generalize releaseRounds t s.ilu.nextSeq 73 (expireLate s) = r at hgrown ⊢
  split
  next => exact hgrown.trans (listGrown_reclaimAdvance t r.1)
  next => exact hgrown

/-- A take write legal before a pass is legal after it: the list is no shorter (R8). -/
theorem legalTake_releasePass {v : Word} (hs : ListFrom t s.rt.take s) (hv : legalTake s v = true) :
    legalTake (releasePass t s) v = true := by
  have hgrown := listGrown_releasePass t s
  obtain ⟨more, hmore⟩ := hgrown.list
  have hlength := hs.length
  have hlength' := hs.releasePass.length
  rw [hmore, List.length_append] at hlength'
  simp only [legalTake, decide_eq_true_eq] at hv ⊢
  rw [hgrown.take] at hlength' ⊢
  omega

/-! ### The list stays sound -/

theorem releaseListSound_releasePass (ht : s.tables = some t) (hs : ReleaseListSound s) :
    ReleaseListSound (releasePass t s) := by
  obtain ⟨hlist, hlegal⟩ := (releaseListSound_iff ht).mp hs
  refine (releaseListSound_iff (by simpa using ht)).mpr ⟨hlist.releasePass, fun v hv => ?_⟩
  exact legalTake_releasePass hlist (hlegal v (NoNewSnoop.of_bpu_eq (by simp) _ v hv))

theorem releaseListSound_decoded {c : Cycle} {o : MemOutcome} (hd : decodeCycle s c = .memory o)
    (hs : ReleaseListSound s) :
    ReleaseListSound (setUpstream (some { cycle := c, stage := .waiting o, abandoned := false }) .idle s) := by
  cases ht : s.tables with
  | none => exact (releaseListSound_iff_none (by simp [ht])).mpr ((releaseListSound_iff_none ht).mp hs)
  | some t =>
    obtain ⟨hlist, -⟩ := (releaseListSound_iff ht).mp hs
    have hkept : ListKept s (setUpstream (some { cycle := c, stage := .waiting o, abandoned := false }) .idle s) :=
      .of_eq rfl rfl rfl rfl
    refine (releaseListSound_iff (t := t) (by simp [ht])).mpr ⟨hkept.listFrom hlist, fun v hv => ?_⟩
    obtain ⟨rfl, rfl⟩ := snoopedValue_decoded hv
    exact snoopLegal_of_decoded ht hd

/-- A write in flight taken: an index write was legal at its decode and is so still. -/
theorem releaseListSound_snooped {u : UpCycle} {x : SnoopTarget} (e : UpEnding)
    (hflight : masterInFlight s = some (u, .snoop x)) (ht : s.tables = some t) (hslots : SlotsSound s)
    (hs : ReleaseListSound s) : ReleaseListSound (snoopTaken t x u.cycle.data (endMaster u e s)) := by
  obtain ⟨hlist, hlegal⟩ := (releaseListSound_iff ht).mp hs
  obtain ⟨hopen, -, hlegalSubmit⟩ := (slotsSound_iff ht).mp hslots
  have hvalue := snoopedValue_of_masterInFlight hflight
  have hended : ListKept s (endMaster u e s) := .of_eq (by simp) (by simp) (by simp) (by simp)
  have hstart : ListFrom t (endMaster u e s).rt.take (endMaster u e s) := by
    rw [hended.take]
    exact hended.listFrom hlist
  have hkept {y : State} (h : ListKept (endMaster u e s) y) : ListFrom t y.rt.take y := by
    rw [h.take]
    exact h.listFrom hstart
  have htaken : ListFrom t (snoopTaken t x u.cycle.data (endMaster u e s)).rt.take
      (snoopTaken t x u.cycle.data (endMaster u e s)) := by
    cases x with
    | slotWord k w => exact hkept (listKept_recordSlotWord k w _ _)
    | submitWord =>
      exact hkept (listKept_submitAcknowledged (t := t) ⟨hopen.bound, hopen.free⟩ (hlegalSubmit _ hvalue))
    | takeWord => exact hstart.takeAcknowledged (hlegal _ hvalue)
    | reportWord h w => exact hkept (.of_eq (by simp [snoopTaken]) (by simp [snoopTaken]) (by simp [snoopTaken]) (by simp [snoopTaken]))
    | sequenceWord h => exact hkept (listKept_sequenceAcknowledged t h _ _)
  refine (releaseListSound_iff (t := t) (by simp [ht])).mpr ⟨htaken, fun v hv => ?_⟩
  have hnone : (snoopTaken t x u.cycle.data (endMaster u e s)).bpu.upstream = none := by
    rw [(snoopTaken_keeps _ _ _ _).1]; rfl
  simp only [snoopedValue, hnone, reduceCtorEq] at hv

theorem releaseListSound_swapTables (new : Tables) (a b : Word) (hidle : ∀ x, snoopedValue x s = none) :
    ReleaseListSound (swapTables new a b s) := by
  have hrt : (swapTables new a b s).rt = swapRt a b := rfl
  have hob : (swapTables new a b s).ob = Tab.all Entry.reset := rfl
  have hstore : (swapTables new a b s).ilu.store = Tab.all .free := rfl
  have hnone (c : Origin) : ¬ OriginReleased (swapTables new a b s) c := by
    cases c <;> simp [OriginReleased, hob, hstore, Entry.reset]
  refine (releaseListSound_iff rfl).mpr ⟨⟨?_, ?_, ?_, fun c => ?_, fun d x hx => ?_⟩, fun v hv => ?_⟩
  · simp [hrt, swapRt, dist_self]
  · simp [hrt, swapRt, dist_self]
  · simp [hrt, swapRt]
  · simp [hnone c, hrt, swapRt]
  · simp [hrt, swapRt] at hx
  · have hidle' : snoopedValue .takeWord (swapTables new a b s) = none := hidle _
    rw [hidle'] at hv
    cases hv

end

theorem releaseListSound_reset (q : List Instr) : ReleaseListSound (State.reset.setPending q) := by
  refine (releaseListSound_iff_none rfl).mpr ⟨rfl, fun a => ?_⟩
  cases a with
  | host k =>
    have hentry : State.reset.ob.at k = Entry.reset := Tab.at_all _ _
    simp [OriginReleased, hentry, Entry.reset]
  | internal e =>
    have hfree : State.reset.ilu.store.at e = .free := Tab.at_all _ _
    simp [OriginReleased, hfree]

theorem releaseListSound_move {B : Prop} (hB : B) {s s' : State} (h : Move B s s') (hslots : SlotsSound s)
    (hs : ReleaseListSound s) : ReleaseListSound s' := by
  have hstands {y : State} (ht : y.tables = s.tables) (hbpu : y.bpu = s.bpu) (hrt : y.rt = s.rt) (hkept : ListKept s y) :
      ReleaseListSound y := releaseListSound_of_kept ht hkept (fun _ => hrt) (.of_bpu_eq hbpu) hs
  have hmoved {t : Tables} {y : State} (ht : s.tables = some t) (ht' : y.tables = s.tables) (hbpu : y.bpu = s.bpu)
      (hkept : ListKept s y) : ReleaseListSound y :=
    releaseListSound_of_kept ht' hkept (fun hnone => by simp [ht] at hnone) (.of_bpu_eq hbpu) hs
  cases h with
  | inert hsame hsnoop =>
    exact releaseListSound_of_kept hsame.tables
      (.of_eq hsame.ob (by rw [hsame.ilu]) hsame.rt (by rw [hsame.psu])) (fun _ => hsame.rt) hsnoop hs
  | reset q => exact releaseListSound_reset q
  | decoded c o hd => exact releaseListSound_decoded hd hs
  | snooped u x e t hflight ht => exact releaseListSound_snooped e hflight ht hslots hs
  | cancelled k t ht => exact hmoved ht (by simp) (by simp) (listKept_cancelSlot t k s)
  | clockSet tod _ => exact hstands (by simp) (by simp) (by simp) (.of_eq (by simp) (by simp) (by simp) (by simp))
  | sweepStarted t kind ht => exact hmoved ht (by simp) (by simp) (listKept_startSweep t kind s)
  | lockoutCleared t ht _ => exact hmoved ht (by simp) (by simp) (listKept_acceptClearLockout t s)
  | swapped new a b hidle => exact releaseListSound_swapTables new a b (hidle hB)
  | capJudged => exact hstands (by simp) (by simp) (by simp) (.of_eq (by simp) (by simp) (by simp) (by simp))
  | boundary _ => exact hstands (by simp) (by simp) (by simp) (listKept_secondBoundary s)
  | edge _ _ => exact hstands rfl rfl rfl (.of_eq rfl rfl rfl rfl)
  | confirmTaken p => exact hstands (by simp) (by simp) (by simp) (listKept_takeConfirmExpiry p s)
  | runEndTaken p => exact hstands (by simp) (by simp) (by simp) (listKept_takeRunEnd p s)
  | guardTaken g => exact hstands (by simp) (by simp) (by simp) (listKept_takeGuardExpiry g s)
  | passTaken t ht => exact releaseListSound_releasePass ht hs
  | visited t ht => exact hmoved ht (by simp) (by simp) (listKept_sweepVisit t s)

/-- Settles O59: a release appends a position for an order it found eligible, a legal take advance removes the positions it
passes, and no other part of a step makes an order RELEASED, moves one from RELEASED, or takes a group out of ARMED. -/
theorem stepKeepsReleaseList : Obligations.StepKeepsReleaseList := by
  intro s s' hbus hslots hs hstep
  have hboth := step_keeps (P := fun x => SlotsSound x ∧ ReleaseListSound x)
    (fun x y hmove hx => ⟨slotsSound_move hbus hmove hx.1, releaseListSound_move hbus hmove hx.1 hx.2⟩) hstep ⟨hslots, hs⟩
  exact hboth.2

end Sys2Proof.Machine

/-! PROOFS. The arbiter's grants (R161) and the part's RESETN condition (R159, R164): the statements about the step, RESETN
and the arbiter. -/

namespace Sys2Proof.Machine

open Safety

/-! ### The arbiter with the port free -/

section
variable {s : State} {a : Addr} {u : UpCycle} {o : MemOutcome}

theorem masterWaiting_eq_none (h : NoMasterWaits s) : masterWaiting s = none := by
  cases hm : masterWaiting s with
  | none => rfl
  | some x => exact absurd rfl (h _ x.2.1 (upstream_of_masterWaiting hm))

theorem masterWaiting_of_stage (hu : s.bpu.upstream = some u) (ho : u.stage = .waiting o) :
    masterWaiting s = some (u.cycle, o, u.abandoned) := by
  simp [masterWaiting, hu, ho]

theorem grant_none (hm : masterWaiting s = none) (hl : loaderAddr s = none) : grant s = s := by
  simp [grant, hm, hl]

theorem grant_loader (hresetn : s.bpu.resetn = false) (hport : s.bpu.memPort = none) (hm : masterWaiting s = none)
    (hl : loaderAddr s = some a) : grant s = s.setBpu { s.bpu with lastGrant := .loader, memPort := fetchAt s a } := by
  simp [grant, hresetn, hport, hm, hl, grantLoader, fetchAt]

/-- The master's cycle granted the port: its own address, or the redirected one (R148). -/
def masterGranted (u : UpCycle) (o : MemOutcome) (s : State) : State :=
  s.setBpu { s.bpu with
    lastGrant := .master
    upstream := some { u with stage := .inFlight o }
    memPort := some
      { owner := .master, addr := portAddr u.cycle o, write := u.cycle.write, lanes := u.cycle.lanes,
        data := u.cycle.data, timeout := s.bpu.timeout } }

theorem grant_master (hresetn : s.bpu.resetn = false) (hport : s.bpu.memPort = none) (hu : s.bpu.upstream = some u)
    (ho : u.stage = .waiting o) (hl : loaderAddr s = none) : grant s = masterGranted u o s := by
  simp [grant, hresetn, hport, masterWaiting_of_stage hu ho, hl, grantMaster, masterGranted]

theorem grant_both (hresetn : s.bpu.resetn = false) (hport : s.bpu.memPort = none) (hu : s.bpu.upstream = some u)
    (ho : u.stage = .waiting o) (hl : loaderAddr s = some a) :
    (s.bpu.lastGrant = .loader → grant s = masterGranted u o s)
      ∧ (s.bpu.lastGrant = .master →
        grant s = s.setBpu { s.bpu with lastGrant := .loader, memPort := fetchAt s a }) := by
  constructor <;> intro hlast <;>
    simp [grant, hresetn, hport, masterWaiting_of_stage hu ho, hl, hlast, grantMaster, masterGranted, grantLoader, fetchAt]

theorem grant_stands (h : s.bpu.resetn = true ∨ s.bpu.memPort ≠ none) : grant s = s := by
  rcases h with h | h
  · simp [grant, h]
  · exact grant_busy s (Option.isSome_iff_ne_none.mpr h)

/-! ### The loader's next address -/

theorem loaderAddr_fetch (h : s.iml.phase = .header ∨ s.iml.phase = .body) :
    loaderAddr s = some (BitVec.ofNat 20 (s.bpu.imgsel.toNat * 65536 + s.iml.nextFetch)) := by
  rcases h with h | h <;> simp [loaderAddr, h, regionBase]

theorem loaderAddr_index (hphase : s.iml.phase = .index) (h : s.bpu.indexStall = true ∨ s.iml.kind = .powerOn) :
    loaderAddr s = some (match s.iml.indexSubmit with
      | none => addressField (staged s.iml.staging 3) (staged s.iml.staging 4)
      | some _ => addressField (staged s.iml.staging 5) (staged s.iml.staging 6)) := by
  have hallowed : indexReadsAllowed s = true := by simpa [indexReadsAllowed] using h
  cases hs : s.iml.indexSubmit <;> simp [loaderAddr, hphase, hallowed, hs]

/-- Outside the index stall a reload reads no index word (R4, R160). -/
theorem loaderAddr_index_none (hphase : s.iml.phase = .index) (hstall : s.bpu.indexStall = false)
    (hkind : s.iml.kind ≠ .powerOn) : loaderAddr s = none := by
  have hallowed : indexReadsAllowed s = false := by simp [indexReadsAllowed, hstall, hkind]
  simp [loaderAddr, hphase, hallowed]

/-- An address field as a number (11.7). -/
theorem addressField_staged (l : List Word) (k : Nat) : addressField (staged l k) (staged l (k + 1)) =
    BitVec.ofNat 20 (imageAddress (fun i => (l.getD i 0).toNat) k) := by
  simp [addressField, imageAddress, staged, field]

end

/-- Settles O39: the four cases of the arbiter with the port free, and the loader's address phase by phase. -/
theorem arbiterAlternates : Obligations.ArbiterAlternates := by
  intro s
  refine ⟨grant_stands, fun hresetn hport => ⟨?_, ?_, ?_, ?_⟩, ?_, loaderAddr_fetch, loaderAddr_index_none, ?_⟩
  · exact fun hm hl => grant_none (masterWaiting_eq_none hm) hl
  · rintro u o ⟨hu, ho⟩ hl
    rw [grant_master hresetn hport hu ho hl, masterGranted]
    cases o <;> rfl
  · exact fun a hm hl => grant_loader hresetn hport (masterWaiting_eq_none hm) hl
  · rintro u o a ⟨hu, ho⟩ hl
    obtain ⟨hmaster, hloader⟩ := grant_both hresetn hport hu ho hl
    refine ⟨fun hlast => ?_, hloader⟩
    rw [hmaster hlast, masterGranted]
    cases o <;> rfl
  · rintro (h | h) <;> simp [loaderAddr, h]
  · intro hphase h
    rw [loaderAddr_index hphase h]
    refine ⟨fun hnone => ?_, fun hsome => ?_⟩
    · rw [hnone]
      exact congrArg some (addressField_staged _ 3)
    · obtain ⟨b, hb⟩ := Option.ne_none_iff_exists'.mp hsome
      rw [hb]
      exact congrArg some (addressField_staged _ 5)

/-! ### The step and RESETN -/

/-- Settles O1. -/
theorem stepTakesFront : Obligations.StepTakesFront := fun _ _ _ => rfl

/-- Settles O2. -/
theorem emptyQueueIsOneTrefEdge : Obligations.EmptyQueueIsOneTrefEdge := by
  intro s hempty
  have hstep : step s = .next (trefEdge s) := by simp [step, hempty]
  refine ⟨fun hset => ?_, fun hset hlt => ?_, fun hset hlast => ?_⟩ <;> rw [hstep]
  · simp [trefEdge, hset]
  · simp [trefEdge, hset, Config.trefPerSecond, hlt]
  · show _ = Host.Outcome.next (if s.cbu.clockSet then secondBoundary s else s)
    simp [trefEdge, hset, hlast, Config.trefPerSecond]

@[simp] theorem resetReleased_pending (v : BitVec 4) (s : State) : (resetReleased v s).pending = s.pending := by
  simp only [resetReleased]; split <;> simp

@[simp] theorem takeStaleExpiry_pending (h : Fin 12) (s : State) : (takeStaleExpiry h s).pending = s.pending := by
  simp only [takeStaleExpiry]; split <;> simp

@[simp] theorem takePass_pending (s : State) : (takePass s).pending = s.pending := by
  simp only [takePass]; (repeat' split) <;> simp

@[simp] theorem takeVisit_pending (s : State) : (takeVisit s).pending = s.pending := by
  simp only [takeVisit]; (repeat' split) <;> simp

@[simp] theorem abandonCycle_pending (s : State) : (abandonCycle s).pending = s.pending := by
  simp only [abandonCycle]; (repeat' split) <;> simp

@[simp] theorem statusBlockWrite_pending (w : Nat) (v : Word) (s : State) :
    (statusBlockWrite w v s).pending = s.pending := by
  simp [statusBlockWrite]

@[simp] theorem commandWrite_pending (code : Word) (s : State) : (commandWrite code s).pending = s.pending := by
  simp [commandWrite]

/-- Settles O3: every row answers with the state of its effect, and no effect reads or writes the queue. -/
theorem everyCommandAnswersNext : Obligations.EveryCommandAnswersNext := by
  intro c s
  cases c
  case resetnAssert => exact ⟨_, rfl, rfl⟩
  case secondBoundary => exact ⟨_, rfl, by split <;> simp⟩
  case fetchRead data => exact ⟨_, rfl, by split <;> simp⟩
  case indexRead data => exact ⟨_, rfl, by split <;> simp⟩
  case unknownCommand code => exact ⟨_, rfl, by split <;> simp⟩
  all_goals exact ⟨_, rfl, by simp⟩

/-- Settles O4: RESETN takes every block to its RESETN condition; its release begins a load, whose read finds the port
free. -/
theorem resetnAssertAndRelease : Obligations.ResetnAssertAndRelease := by
  refine ⟨fun _ => rfl, fun v s => ⟨fun hbpu himl => ?_, fun hresetn => ?_⟩⟩
  · have hresetn : s.bpu.resetn = true := by rw [hbpu]; rfl
    have hbegun : exec (.resetnRelease v) s = .next (beginLoad .powerOn none (s.setBpu { s.bpu with resetn := false, imgsel := v })) := by
      show Host.Outcome.next (resetReleased v s) = _
      rw [resetReleased, if_pos hresetn]
    rw [hbegun, beginLoad, grant_loader (a := BitVec.ofNat 20 (v.toNat * 65536)) rfl]
    · simp only [State.setBpu_iml, himl]
      rfl
    · simp [hbpu]; rfl
    · simp [masterWaiting, hbpu]; rfl
    · simp [loaderAddr, regionBase, Iml.idleWith]
  · show Host.Outcome.next (resetReleased v s) = _
    simp [resetReleased, hresetn]

/-- Settles O5. -/
theorem resetValues : Obligations.ResetValues := by
  refine ⟨⟨rfl, rfl, rfl, rfl, rfl, rfl⟩, rfl, ⟨rfl, rfl, rfl, rfl, rfl⟩, fun k => ?_, rfl, fun p => Tab.at_all _ p,
    fun g => Tab.at_all _ g, fun h => ?_, fun r => Tab.at_all _ r, fun p => ⟨Tab.at_all _ p, Tab.at_all _ p⟩, rfl, rfl,
    fun e => Tab.at_all _ e, rfl, fun p => Tab.at_all _ p, rfl, ⟨rfl, rfl, rfl, rfl, rfl, rfl, rfl, rfl, rfl⟩,
    ⟨rfl, rfl, fun n => Tab.at_all _ n, rfl, rfl, rfl, ?_, rfl⟩, rfl⟩
  · have hentry : State.reset.ob.at k = Entry.reset := Tab.at_all _ k
    rw [hentry]
    exact ⟨rfl, fun w => Tab.at_all _ w, rfl, rfl, rfl, rfl, rfl⟩
  · have hhouse : State.reset.rsu.houses.at h = HouseRec.reset := Tab.at_all _ h
    rw [hhouse]
    exact ⟨rfl, rfl, rfl, rfl, fun w => Tab.at_all _ w⟩
  · decide

/-- Settles O53: in the RESETN condition nothing is in progress, released or recorded. -/
theorem resetIsSound : Obligations.ResetIsSound :=
  ⟨clockSound_reset, pumpsSound_reset, storeSound_of_empty rfl, queuesSound_of_ob_reset rfl,
    busSound_reset [], releaseListSound_reset [], (slotsSound_iff_none rfl).mpr rfl⟩

end Sys2Proof.Machine

/-! PROOFS. Time (chapters 3, 5, 7): the second boundary whole, and the expiries it finds reached (R58, R62, R71, R109,
R135 to R139). -/

namespace Sys2Proof.Machine

open Safety

/-! ### The second boundary -/

section
variable {s : State}

theorem exec_secondBoundary (h : s.cbu.clockSet = true) : exec .secondBoundary s = .next (secondBoundary s) := by
  show Host.Outcome.next (if s.cbu.clockSet then secondBoundary s else s) = _
  rw [if_pos h]

/-- The states in which a pump spends (R136). -/
theorem spends_iff {p : Fin 32} : spends s p = true ↔
    (s.psu.pumps.at p).state = .running ∨ (s.psu.pumps.at p).state = .stopSent ∨ (s.psu.pumps.at p).state = .stopping
      ∨ ((s.psu.pumps.at p).state = .lockout ∧ s.rsu.runningBits.at p = true) := by
  unfold spends
  cases h : (s.psu.pumps.at p).state <;> simp [reportedRunning]

theorem minuteHit_iff : minuteHit s = true ↔ bandCap s ≠ 0 ∧ bandCap s * 16 ≤ minuteTally s := by
  simp [minuteHit, capHit]

theorem clockEffects_csu (s : State) : (clockEffects s).csu =
    if timeOfDay (epochAdd s.cbu.now 1) % 60 = 0 then
      { s.csu with flags := if minuteHit s && !s.cbu.capReached then flagsWith s .energyCap else s.csu.flags }
    else s.csu := by
  have hnow : (advanceNow s).cbu.now = epochAdd s.cbu.now 1 := rfl
  have hminute : (minuteEffects (advanceNow s)).csu =
      { s.csu with flags := if minuteHit s && !s.cbu.capReached then flagsWith s .energyCap else s.csu.flags } :=
    minuteEffects_csu (advanceNow s)
  have hband (y : State) : (bandEffects y).csu = y.csu := rfl
  simp only [clockEffects, hnow]
  split <;> split
  · rw [hband, hminute]
  · rw [hband]; rfl
  · exact hminute
  · rfl

theorem secondBoundary_csu (s : State) : (secondBoundary s).csu = (clockEffects s).csu := by
  simp [secondBoundary]

theorem bandOf_val {tod : Nat} (h : tod < 86400) : (bandOf tod).val = tod / 1800 :=
  Nat.mod_eq_of_lt (by omega)

end

/-- Settles O6: the clock's effects case by case, with the minute's sum and cap written out. -/
theorem secondBoundaryAdvancesClock : Obligations.SecondBoundaryAdvancesClock := by
  intro s hset now tod counts sum cap tally hit
  have hsum : minuteSum s = sum := by
    simp only [minuteSum, sum]
    cases s.tables with
    | none => rfl
    | some t =>
      simp only [Tab.sum_numbers, Bool.and_eq_true, spends_iff, configured, decide_eq_true_eq]
      exact Finset.sum_congr rfl fun p _ => if_congr Iff.rfl rfl rfl
  have hcap : bandCap s = cap := by
    simp only [bandCap, cap]
    cases s.tables <;> rfl
  have htally (h : tod % 60 = 0) : minuteTally s = tally := by
    simp only [tally, if_pos h, minuteTally, hsum]
    rfl
  have hhit (h : tod % 60 = 0) : minuteHit s = true ↔ hit := by
    rw [minuteHit_iff, hcap, htally h]
    exact ⟨fun h' => ⟨h, h'⟩, fun h' => h'.2⟩
  have hcbu : (secondBoundary s).cbu = _ := (secondBoundary_cbu s).trans (clockEffects_cbu s)
  have hcsu : (secondBoundary s).csu = _ := (secondBoundary_csu s).trans (clockEffects_csu s)
  have htod : timeOfDay (epochAdd s.cbu.now 1) = tod := rfl
  simp only [htod] at hcbu hcsu
  refine ⟨secondBoundary s, exec_secondBoundary hset, ?_, ?_, ?_, fun hband => ?_, fun hband => ?_, ?_, ?_⟩
  · rw [hcbu]; repeat' split
    all_goals exact hset
  · rw [hcbu]; repeat' split
    all_goals rfl
  · rw [hcbu]; repeat' split
    all_goals rfl
  · rw [hcbu, if_pos hband]
    exact ⟨bandOf_val (Nat.mod_lt _ (by decide)), rfl, rfl⟩
  · rw [hcbu, if_neg hband]
    by_cases hmin : tod % 60 = 0
    · rw [if_pos hmin]
      refine ⟨rfl, htally hmin, ?_⟩
      rw [Bool.or_eq_true, hhit hmin]
    · rw [if_neg hmin]
      refine ⟨rfl, by simp only [tally, if_neg hmin], ?_⟩
      simp only [hit, hmin, false_and, or_false]
  · rintro ⟨hhits, hcapReached⟩
    rw [hcsu, if_pos hhits.1]
    simp only [(hhit hhits.1).mpr hhits, hcapReached, Bool.not_false, Bool.and_true, if_true]
  · intro hnot
    rw [hcsu]
    split
    next hmin =>
      have hraises : (minuteHit s && !s.cbu.capReached) = false := by
        rw [Bool.eq_false_iff]
        intro h
        simp only [Bool.and_eq_true, Bool.not_eq_true'] at h
        exact hnot ⟨(hhit hmin).mp h.1, h.2⟩
      rw [hraises]
      rfl
    next => rfl

/-! ### What it hands on -/

theorem secondBoundary_houses (s : State) : (secondBoundary s).rsu.houses =
    (rsuBoundary (psuBoundary (hourEffects (clockEffects s)))).rsu.houses := by
  simp [secondBoundary]

theorem secondBoundary_house_fresh {s : State} {h : Fin 12} {x : Timer} (hfresh : (s.rsu.houses.at h).freshness = .fresh x) :
    (secondBoundary s).rsu.houses.at h =
      { s.rsu.houses.at h with freshness := .fresh (judgeTimer (clockEffects s).cbu.now x) } := by
  rw [secondBoundary_houses]
  simp [rsuBoundary, hfresh]

theorem secondBoundary_house_stands {s : State} {h : Fin 12} (hfresh : ∀ x, (s.rsu.houses.at h).freshness ≠ .fresh x) :
    (secondBoundary s).rsu.houses.at h = s.rsu.houses.at h := by
  rw [secondBoundary_houses]
  cases hrec : (s.rsu.houses.at h).freshness with
  | fresh x => exact absurd hrec (hfresh x)
  | never => simp [rsuBoundary, hrec]
  | stale => simp [rsuBoundary, hrec]

theorem secondBoundary_rsu (s : State) :
    (secondBoundary s).rsu = { s.rsu with houses := (secondBoundary s).rsu.houses } := by
  have hrsu : (secondBoundary s).rsu = (rsuBoundary (psuBoundary (hourEffects (clockEffects s)))).rsu := by
    simp [secondBoundary]
  rw [hrsu]
  simp [rsuBoundary]

/-- The offset is congruent to the difference and lies in its range (R140). -/
theorem epochOffset_spec (x now : Nat) : -2147472000 ≤ epochOffset x now ∧ epochOffset x now ≤ 2147471999
    ∧ (4294944000 : Int) ∣ epochOffset x now - ((x : Int) - (now : Int)) := by
  obtain ⟨d, hd⟩ : ∃ d : Nat, d = (x + (4294944000 - now % 4294944000)) % 4294944000 := ⟨_, rfl⟩
  have hoffset : epochOffset x now = if d < 2147472000 then (d : Int) else (d : Int) - 4294944000 := by rw [hd]; rfl
  rw [hoffset]
  split <;> omega

/-- Settles O7: the records of a second boundary, one by one. -/
theorem secondBoundaryHandedOn : Obligations.SecondBoundaryHandedOn := by
  refine ⟨fun s hset => ?_, fun _ _ => rfl, epochOffset_spec⟩
  refine ⟨secondBoundary s, exec_secondBoundary hset, fun p => ?_, fun g h i x hg => ?_, fun g hg => ?_, fun h x hfresh => ?_,
    fun h hfresh => ?_, ?_⟩
  · rw [secondBoundary_pump, secondBoundary_cbu]
    rfl
  · rw [secondBoundary_group, secondBoundary_cbu, hg]
    rfl
  · rw [secondBoundary_group]
    cases hrec : s.psu.groups.at g with
    | quiet => rfl
    | armed => rfl
    | guard h i x => exact absurd hrec (hg h i x)
  · rw [secondBoundary_house_fresh hfresh, secondBoundary_cbu]
  · exact secondBoundary_house_stands hfresh
  · have hrsu := secondBoundary_rsu s
    refine ⟨by rw [hrsu], by rw [hrsu], by rw [hrsu], by rw [hrsu], by rw [hrsu], ?_, by simp, by simp, by simp, by simp,
      by simp, by simp⟩
    simp [secondBoundary]

/-! ### Expiries -/

/-- Settles O8: an expiry found reached is due, and neither state of it moves into a stopping one. -/
theorem confirmExpiryLocksOut : Obligations.ConfirmExpiryLocksOut := by
  intro p s x r hstate hconfirm hdue
  show Host.Outcome.next (takeConfirmExpiry p s) = _
  have hdueNow : confirmDue (s.psu.pumps.at p) = true := by
    simp only [confirmDue, Bool.and_eq_true, Bool.or_eq_true, beq_iff_eq]
    exact ⟨hstate, by simp [r] at hconfirm; simp [hconfirm, hdue]⟩
  rw [takeConfirmExpiry, if_pos hdueNow]
  rcases hstate with h | h
  · simp only [r] at h
    simp [confirmExpired, h, putPump, stoppingState, r]
    rfl
  · simp only [r] at h
    simp [confirmExpired, h, putPump, stoppingState, r]
    rfl

/-- A stop for a RUNNING pump is outstanding where the pump holds an entry (R118). -/
theorem stopOutstanding_of_running {s : State} {p : Fin 32} (h : (s.psu.pumps.at p).state = .running) :
    stopOutstanding s p = holdsEntry s p := by
  have hsent : (PumpState.running == .stopSent) = false := rfl
  have hstopping : (PumpState.running == .stopping) = false := rfl
  simp only [stopOutstanding, h, hsent, hstopping, Bool.or_false]

theorem raiseEntry_timed (e : Fin 8) (p : Fin 32) (s : State) : raiseEntry e p .timed s = s.setIlu
    { store := s.ilu.store.put e (.waiting
        { pump := p, kind := .timedStop, cause := .timed, raised := s.cbu.now, seq := s.ilu.nextSeq }),
      nextSeq := s.ilu.nextSeq + 1, owed := s.ilu.owed.put p none } := rfl

/-- Settles O9: the run-end goes, and the pump is handed over RUNNING. -/
theorem runEndHandsOverPump : Obligations.RunEndHandsOverPump := by
  intro p s x r out kept hstate hrunEnd hdue hfirst
  let cleared : State := s.setPsu { s.psu with pumps := s.psu.pumps.put p { r with runEnd := none } }
  have hfound : firstRunEnd s p = true := by
    have hdueNow : runEndDue (s.psu.pumps.at p) = true := by
      have hrunEnd' : (s.psu.pumps.at p).runEnd = some x := hrunEnd
      have hstate' : (s.psu.pumps.at p).state = .running := hstate
      simp [runEndDue, hstate', hrunEnd', hdue]
    rw [firstRunEnd, find_first (fun q => runEndDue (s.psu.pumps.at q)) p hdueNow hfirst]
    exact beq_self_eq_true _
  have hexec : exec (.runEnd p) s = .next (requestPass (timedStop p cleared)) := by
    show Host.Outcome.next (takeRunEnd p s) = _
    have hput : putPump p { s.psu.pumps.at p with runEnd := none } s = cleared := putPump_same rfl
    rw [takeRunEnd, if_pos hfound, hput]
  have hrunning : (cleared.psu.pumps.at p).state = .running := by
    simpa [cleared] using hstate
  have hholds : holdsEntry cleared p = holdsEntry s p := rfl
  have hplaced (h : ¬ out) : timedStop p cleared = placeStop p .timed cleared := by
    rw [timedStop, stopOutstanding_of_running hrunning, hholds, if_neg h]
  refine ⟨fun hout => ?_, fun hout hfull => ?_, fun e hout hfree hlowest => ?_⟩ <;> rw [hexec]
  · have hstands : timedStop p cleared = cleared := by
      rw [timedStop, stopOutstanding_of_running hrunning, hholds, if_pos hout]
    rw [hstands]
    rfl
  · have hnone : freeEntry cleared = none := freeEntry_eq_none.mpr hfull
    rw [hplaced hout, placeStop, hnone, oweStop_eq]
    rfl
  · have hsome : freeEntry cleared = some e := freeEntry_first hfree hlowest
    rw [hplaced hout, placeStop, hsome]
    simp only [hrunning, reduceCtorEq, if_false, raiseEntry_timed]
    rfl

/-- Settles O10. -/
theorem guardAndStaleExpiries : Obligations.GuardAndStaleExpiries := by
  refine ⟨fun g s h i x hguard hdue => ?_, fun h s x hfresh hdue => ?_⟩
  · show Host.Outcome.next (takeGuardExpiry g s) = _
    have hdueNow : guardDue (s.psu.groups.at g) = true := by rw [hguard]; exact hdue
    rw [takeGuardExpiry, if_pos hdueNow]
    rfl
  · show Host.Outcome.next (takeStaleExpiry h s) = _
    have hdueNow : staleDue (s.rsu.houses.at h) = true := by simp [staleDue, hfresh, hdue]
    rw [takeStaleExpiry, if_pos hdueNow]
    rfl

end Sys2Proof.Machine

/-! PROOFS. The commands HOLD, RELOAD, SET_TIME, the sweeps and CLEAR_LOCKOUT (10.3): what the checks of R182 come down to,
and what each leaves when it is accepted. -/

namespace Sys2Proof.Machine

open Safety

/-! ### The checks of R182 with no long command in flight -/

section
variable {s : State}

theorem acceptedIn_holdOrRun {cmd : Command} (hcmd : cmd = .hold ∨ cmd = .cancelTag ∨ cmd = .withdrawHouse ∨ cmd = .clearLockout)
    {x : Sched} : acceptedIn cmd x = true ↔ x = .hold ∨ x = .run := by
  rcases hcmd with rfl | rfl | rfl | rfl <;> simp [acceptedIn]

theorem longInFlight_eq_false (hsched : s.csu.sched ≠ .reloading) (hsweep : s.csu.sweep.kind = .none) :
    longInFlight s = false := by
  simp [longInFlight, hsched, hsweep]

/-- A command that HOLD and RUN accept is judged by its arguments alone. -/
theorem commandCheck_holdOrRun {cmd : Command}
    (hcmd : cmd = .hold ∨ cmd = .cancelTag ∨ cmd = .withdrawHouse ∨ cmd = .clearLockout)
    (hsched : s.csu.sched = .hold ∨ s.csu.sched = .run) (hsweep : s.csu.sweep.kind = .none) :
    commandCheck s cmd = if argumentsValid s cmd then .none else .badArgument := by
  have haccepted := (acceptedIn_holdOrRun hcmd).mpr hsched
  have hlong := longInFlight_eq_false (by rcases hsched with h | h <;> simp [h]) hsweep
  have hrun : cmd ≠ .run := by rcases hcmd with rfl | rfl | rfl | rfl <;> decide
  have hreload : cmd ≠ .reload := by rcases hcmd with rfl | rfl | rfl | rfl <;> decide
  cases hvalid : argumentsValid s cmd <;> simp [commandCheck, haccepted, hlong, hvalid, hrun, hreload]

/-- RELOAD in HOLD is judged by the quiet conditions (R174). -/
theorem commandCheck_reload_hold (hsched : s.csu.sched = .hold) (hsweep : s.csu.sweep.kind = .none) :
    commandCheck s .reload = if quiet s then .none else .notQuiet := by
  have haccepted : acceptedIn .reload .hold = true := rfl
  have hlong := longInFlight_eq_false (by simp [hsched]) hsweep
  have hvalid : argumentsValid s .reload = true := rfl
  cases hquiet : quiet s <;> simp [commandCheck, haccepted, hlong, hvalid, hsched, hquiet]

theorem commandCheck_reload_unloaded (hsched : s.csu.sched = .unloaded) (hsweep : s.csu.sweep.kind = .none) :
    commandCheck s .reload = .none := by
  have haccepted : acceptedIn .reload .unloaded = true := rfl
  have hlong := longInFlight_eq_false (by simp [hsched]) hsweep
  have hvalid : argumentsValid s .reload = true := rfl
  simp [commandCheck, haccepted, hlong, hvalid, hsched]

theorem commandOf_eq_none {code : Word} (h : code = 0 ∨ 8 ≤ code.toNat) : commandOf code = none := by
  have hnat : code.toNat = 0 ∨ 8 ≤ code.toNat := h.imp_left fun h => by rw [h]; rfl
  unfold commandOf
  split <;> first | rfl | omega

theorem namesCommand_eq_false {code : Word} (h : code = 0 ∨ 8 ≤ code.toNat) : namesCommand code = false := by
  have hnat : code.toNat = 0 ∨ 8 ≤ code.toNat := h.imp_left fun h => by rw [h]; rfl
  simp only [namesCommand, Bool.and_eq_false_iff, decide_eq_false_iff_not]
  omega

end

/-! ### HOLD, RELOAD, SET_TIME -/

/-- Settles O45: HOLD has no argument to judge, and a value that names no command is turned away before every check. -/
theorem holdAndUnknownCommand : Obligations.HoldAndUnknownCommand := by
  refine fun s h => ⟨fun hsweep hsched => ?_, turnedAway_of_commandWrite h (cmd := .hold) rfl rfl (acceptedIn_holdOrRun (.inl rfl)),
    fun code hcode => ?_⟩
  · have hcheck : commandCheck s .hold = .none := commandCheck_holdOrRun (.inl rfl) hsched hsweep
    calc exec .hold s
        = .next (commandWrite 2 s) := rfl
      _ = .next (acceptCommand .hold ((acknowledged s).setCsu { s.csu with commandWord := 2 })) := by
        rw [commandWrite_accepted h (cmd := .hold) rfl hcheck]
      _ = _ := rfl
  · calc exec (.unknownCommand code) s
        = .next (if namesCommand code then s else commandWrite code s) := rfl
      _ = .next (takeCommand code (acknowledged s)) := by
        rw [namesCommand_eq_false hcode, commandWrite_accepting h, endCycle_accepting h]
        rfl
      _ = _ := by
        simp only [takeCommand, commandOf_eq_none hcode]
        rfl

/-- The first fetch read of a reload accepted with the port free. -/
theorem acceptCommand_reload {s : State} (h : Accepting s) (hport : s.bpu.memPort = none) (code : Word) :
    acceptCommand .reload ((acknowledged s).setCsu { s.csu with commandWord := code }) =
      (((acknowledged s).setBpu { s.bpu with
          ending := .ack none
          memPort := fetchAt s (BitVec.ofNat 20 (s.bpu.imgsel.toNat * 65536))
          lastGrant := .loader }).setIml
        { kind := .reload, phase := .header,
          origin := some (if s.csu.sched = .unloaded then .unloaded else .hold), nextFetch := 0, sum := 0, staging := [],
          indexSubmit := none, indexTake := none, reason := s.iml.reason }).setCsu { s.csu with
          sched := .reloading
          commandWord := code
          status := { code := 3, outcome := .accepted, reason := .none } } := by
  obtain ⟨hresetn, hup, -⟩ := h
  simp only [acceptCommand, acceptReload, beginLoad]
  rw [grant_loader (a := BitVec.ofNat 20 (s.bpu.imgsel.toNat * 65536))]
  · rfl
  · exact hresetn
  · exact hport
  · simp [masterWaiting, acknowledged, hup]
  · simp [loaderAddr, regionBase, Iml.idleWith, acknowledged]

/-- Settles O46: the quiet conditions decide RELOAD in HOLD, none in UNLOADED, and the load's first read is granted a free
port. -/
theorem reloadCommand : Obligations.ReloadCommand := by
  intro s h begun
  have haccepted : acceptedIn .reload s.csu.sched = true ↔ s.csu.sched = .hold ∨ s.csu.sched = .unloaded := by
    simp [acceptedIn]
  refine ⟨turnedAway_of_commandWrite h (cmd := .reload) rfl rfl haccepted, fun hsweep => ⟨fun hsched hquiet => ?_,
    fun hport hsched hquiet => ?_, fun hport hsched => ?_⟩⟩
  · have hcheck : commandCheck s .reload = .notQuiet := by
      rw [commandCheck_reload_hold hsched hsweep, if_neg (mt (quiet_iff s).mp hquiet)]
    calc exec .reload s
        = .next (commandWrite 3 s) := rfl
      _ = _ := by rw [commandWrite_refused h (cmd := .reload) rfl hcheck nofun]
  · have hcheck : commandCheck s .reload = .none := by
      rw [commandCheck_reload_hold hsched hsweep, if_pos ((quiet_iff s).mpr hquiet)]
    calc exec .reload s
        = .next (commandWrite 3 s) := rfl
      _ = _ := by rw [commandWrite_accepted h (cmd := .reload) rfl hcheck, acceptCommand_reload h hport, hsched]; rfl
  · have hcheck := commandCheck_reload_unloaded hsched hsweep
    calc exec .reload s
        = .next (commandWrite 3 s) := rfl
      _ = _ := by rw [commandWrite_accepted h (cmd := .reload) rfl hcheck, acceptCommand_reload h hport, hsched]; rfl

/-- The digits of a byte read back, the last one cut off the quotient of the first. -/
theorem byte_digits {w tens units : Nat} (hu : units < 16) (hw : w % 256 = tens * 16 + units) :
    w / 16 % 16 = tens ∧ w % 16 = units := by
  omega

theorem bcdPair_digits {n : Nat} (hn : n < 100) : bcdPair (n / 10) (n % 10) = some n := by
  rw [bcdPair_eq_some]
  omega

/-- The word with the digits of hh and mm names their time of day (R30). -/
theorem timeField_digits {h m : Nat} (hh : h < 24) (hm : m < 60) :
    timeField (BitVec.ofNat 16 ((h / 10 * 16 + h % 10) * 256 + (m / 10 * 16 + m % 10))) = some (h * 3600 + m * 60) := by
  obtain ⟨w, hw⟩ : ∃ w : Nat, w = (h / 10 * 16 + h % 10) * 256 + (m / 10 * 16 + m % 10) := ⟨_, rfl⟩
  have hword : (BitVec.ofNat 16 w).toNat = w := by
    rw [BitVec.toNat_ofNat]
    omega
  have hlow : w % 256 = m / 10 * 16 + m % 10 := by omega
  have hquot : w / 256 = h / 10 * 16 + h % 10 := by omega
  have hhigh : w / 256 % 256 = h / 10 * 16 + h % 10 := by
    rw [hquot]
    omega
  obtain ⟨hmt, hmu⟩ := byte_digits (by omega) hlow
  obtain ⟨hht, hhu⟩ := byte_digits (by omega) hhigh
  rw [Nat.div_div_eq_div_mul] at hht
  rw [← hw, timeField_eq_some]
  refine ⟨h, m, ?_, ?_, by omega, rfl⟩ <;> simp only [field, hword, Nat.reducePow, Nat.div_one]
  · rw [hht, hhu, bcdPair_digits (by omega)]
  · rw [hmt, hmu, bcdPair_digits (by omega)]

theorem secondsField_digits {w : Word} {sec : Nat} (hsec : sec < 60) (hw : w.toNat % 256 = sec / 10 * 16 + sec % 10) :
    secondsField w = some sec := by
  obtain ⟨htens, hunits⟩ := byte_digits (by omega) hw
  simp only [secondsField_eq_some, field, Nat.reducePow, Nat.div_one]
  rw [htens, hunits, bcdPair_digits (by omega)]
  exact ⟨rfl, by omega⟩

/-- Settles O47: six decimal digits are the time of day they name, and SET_TIME sets the clock to it. -/
theorem setTimeCommand : Obligations.SetTimeCommand := by
  refine fun s haccepting => ⟨fun h m sec hsweep hsched hh hm hsec hhmm hss => ?_,
    turnedAway_of_commandWrite haccepting (cmd := .setTime) rfl rfl beq_iff_eq⟩
  have harg : setTimeArgument (s.csu.arguments.at 0) (s.csu.arguments.at 1) = some (h * 3600 + m * 60 + sec) := by
    simp only [setTimeArgument, hhmm, timeField_digits hh hm, secondsField_digits hsec hss]
  have hcheck : commandCheck s .setTime = .none := by
    rw [commandCheck_setTime_hold hsched hsweep, harg]
    rfl
  have hband : bandOf (h * 3600 + m * 60 + sec) = Fin.ofNat 48 (h * 2 + m / 30) := by
    simp only [bandOf]
    congr 1
    omega
  have hset : acceptCommand .setTime ((acknowledged s).setCsu { s.csu with commandWord := 4 }) =
      setClock (h * 3600 + m * 60 + sec)
        (setStatus 4 .done .none ((acknowledged s).setCsu { s.csu with commandWord := 4 })) := by
    have harg' : setTimeArgument (argument ((acknowledged s).setCsu { s.csu with commandWord := 4 }) 0)
        (argument ((acknowledged s).setCsu { s.csu with commandWord := 4 }) 1) = some (h * 3600 + m * 60 + sec) := harg
    simp only [acceptCommand, harg']
  calc exec .setTime s
      = .next (commandWrite 4 s) := rfl
    _ = .next (acceptCommand .setTime ((acknowledged s).setCsu { s.csu with commandWord := 4 })) := by
      rw [commandWrite_accepted haccepting (cmd := .setTime) rfl hcheck]
    _ = _ := by
      rw [hset, setClock, hband]
      rfl

/-! ### Sweeps -/

/-- A sweep accepted: it ends at once on an empty range (R188, R191). -/
theorem startSweep_eq (t : Tables) {kind : SweepKind} (hkind : kind ≠ .none) (s : State) : startSweep t kind s =
    (s.setOb (Tab.ofFn fun k =>
      if (waitingOrder (s.ob.at k)).any (sweepMatches t kind (argument s 0)) then { s.ob.at k with mark := true }
      else s.ob.at k)).setCsu
      (if s.rt.reclaim = s.rt.submit then { s.csu with
          status := { code := sweepCode kind, outcome := .done, reason := .none }
          sweep := { kind := .none, key := argument s 0, next := s.rt.reclaim, last := s.rt.submit }
          flags := flagsWith s .sweepDone
          missed := 0 }
        else { s.csu with
          status := { code := sweepCode kind, outcome := .accepted, reason := .none }
          sweep := { kind, key := argument s 0, next := s.rt.reclaim, last := s.rt.submit }
          missed := 0 }) := by
  simp only [startSweep, endSweepIfDone]
  split
  next h =>
    have hempty : s.rt.reclaim = s.rt.submit := h.2
    rw [if_pos hempty]
    rfl
  next h =>
    have hrange : s.rt.reclaim ≠ s.rt.submit := fun e => h ⟨hkind, e⟩
    rw [if_neg hrange]
    rfl

theorem argumentsValid_withdrawHouse {s : State} {t : Tables} (ht : s.tables = some t) :
    argumentsValid s .withdrawHouse = decide ((s.csu.arguments.at 0).toNat < t.map.houseCount.val) := by
  simp only [argumentsValid, ht, Option.any_some]
  rfl

/-- Settles O49: the key is the argument word, and the marks and the walk's range are those of the moment. -/
theorem sweepCommands : Obligations.SweepCommands := by
  refine ⟨?_, fun s h =>
    ⟨turnedAway_of_commandWrite h (cmd := .cancelTag) rfl rfl (acceptedIn_holdOrRun (.inr (.inl rfl))),
      turnedAway_of_commandWrite h (cmd := .withdrawHouse) rfl rfl (acceptedIn_holdOrRun (.inr (.inr (.inl rfl))))⟩⟩
  intro s t hfree ht hsched key started
  obtain ⟨haccepting, hsweep⟩ := hfree
  refine ⟨?_, fun hhouse => ?_, fun hhouse => ?_⟩
  · have hcheck : commandCheck s .cancelTag = .none := commandCheck_holdOrRun (.inr (.inl rfl)) hsched hsweep
    calc exec .cancelTag s
        = .next (commandWrite 5 s) := rfl
      _ = .next (startSweep t .cancelTag ((acknowledged s).setCsu { s.csu with commandWord := 5 })) := by
        rw [commandWrite_accepted haccepting (cmd := .cancelTag) rfl hcheck]
        simp only [acceptCommand, State.setCsu_tables, show (acknowledged s).tables = s.tables from rfl, ht]
      _ = _ := by
        rw [startSweep_eq t (by decide)]
        rfl
  · have hcheck : commandCheck s .withdrawHouse = .none := by
      rw [commandCheck_holdOrRun (.inr (.inr (.inl rfl))) hsched hsweep, argumentsValid_withdrawHouse ht,
        decide_eq_true hhouse]
      rfl
    calc exec .withdrawHouse s
        = .next (commandWrite 6 s) := rfl
      _ = .next (startSweep t .withdrawHouse ((acknowledged s).setCsu { s.csu with commandWord := 6 })) := by
        rw [commandWrite_accepted haccepting (cmd := .withdrawHouse) rfl hcheck]
        simp only [acceptCommand, State.setCsu_tables, show (acknowledged s).tables = s.tables from rfl, ht]
      _ = _ := by
        rw [startSweep_eq t (by decide)]
        rfl
  · have hcheck : commandCheck s .withdrawHouse = .badArgument := by
      rw [commandCheck_holdOrRun (.inr (.inr (.inl rfl))) hsched hsweep, argumentsValid_withdrawHouse ht,
        decide_eq_false (Nat.not_lt.mpr hhouse)]
      rfl
    calc exec .withdrawHouse s
        = .next (commandWrite 6 s) := rfl
      _ = _ := by rw [commandWrite_refused haccepting (cmd := .withdrawHouse) rfl hcheck nofun]

/-! ### CLEAR_LOCKOUT -/

theorem argumentsValid_clearLockout {s : State} {t : Tables} (ht : s.tables = some t) :
    argumentsValid s .clearLockout = true ↔ (s.csu.arguments.at 0).toNat < t.pumpCount.val
      ∧ (s.psu.pumps.at (Fin.ofNat 32 (s.csu.arguments.at 0).toNat)).state = .lockout := by
  simp only [argumentsValid, ht, Option.any_some, Bool.and_eq_true, decide_eq_true_eq, beq_iff_eq]
  rfl

/-- A lockout ended: the record, the stop-owed flag of a pump that stops so, and one pass (R59, R122). -/
theorem acceptClearLockout_eq {t : Tables} {s : State} {p : Fin 32} (hp : Fin.ofNat 32 (argument s 0).toNat = p)
    (hlock : (s.psu.pumps.at p).state = .lockout) : acceptClearLockout t s =
      (((s.setCsu { s.csu with status := { code := 7, outcome := .done, reason := .none } }).setPsu { s.psu with
        pumps := s.psu.pumps.put p
          (lockoutCleared (t.pumps.at p) s.cbu.now (s.rsu.runningBits.at p) (s.psu.pumps.at p)) }).setIlu { s.ilu with
        owed := if s.rsu.runningBits.at p then s.ilu.owed else s.ilu.owed.put p none }).setRa
      { requests := s.ra.requests + 1 } := by
  simp only [acceptClearLockout, hp, putPump, reportedRunning, State.setCsu_psu, setStatus, hlock]
  cases hrunning : s.rsu.runningBits.at p
  · rfl
  · rfl

/-- Settles O51: the argument names a pump in LOCKOUT, or CLEAR_LOCKOUT is refused. -/
theorem clearLockoutCommand : Obligations.ClearLockoutCommand := by
  refine ⟨?_, fun s h =>
    turnedAway_of_commandWrite h (cmd := .clearLockout) rfl rfl (acceptedIn_holdOrRun (.inr (.inr (.inr rfl))))⟩
  intro s t p hfree ht hsched n r running cleared
  obtain ⟨haccepting, hsweep⟩ := hfree
  have hjudged := commandCheck_holdOrRun (.inr (.inr (.inr rfl))) hsched hsweep (cmd := .clearLockout)
  have hnamed (hn : n = p.val) : Fin.ofNat 32 (s.csu.arguments.at 0).toNat = p :=
    Fin.ext (by simp only [Fin.ofNat]; show n % 32 = p.val; omega)
  refine ⟨fun hn hp hlock => ?_, fun hbad => ?_⟩
  · have hcheck : commandCheck s .clearLockout = .none := by
      rw [hjudged, if_pos ((argumentsValid_clearLockout ht).mpr ⟨hn.trans_lt hp, by rw [hnamed hn]; exact hlock⟩)]
    calc exec .clearLockout s
        = .next (commandWrite 7 s) := rfl
      _ = .next (acceptClearLockout t ((acknowledged s).setCsu { s.csu with commandWord := 7 })) := by
        rw [commandWrite_accepted haccepting (cmd := .clearLockout) rfl hcheck]
        simp only [acceptCommand, State.setCsu_tables, show (acknowledged s).tables = s.tables from rfl, ht]
      _ = _ := by
        exact congrArg _ (acceptClearLockout_eq (p := p) (hnamed hn) hlock)
  · have hcheck : commandCheck s .clearLockout = .badArgument := by
      rw [hjudged, if_neg fun hvalid => ?_]
      obtain ⟨hlt, hlock⟩ := (argumentsValid_clearLockout ht).mp hvalid
      rcases hbad with hle | ⟨hn, hstate⟩
      · exact absurd hlt (Nat.not_lt.mpr hle)
      · rw [hnamed hn] at hlock
        exact hstate hlock
    calc exec .clearLockout s
        = .next (commandWrite 7 s) := rfl
      _ = _ := by rw [commandWrite_refused haccepting (cmd := .clearLockout) rfl hcheck nofun]

end Sys2Proof.Machine

/-! PROOFS. The take-in of stop-owed flags (R123) and the parts of a round: the withdrawals, the winner and the release
(R65, R77, R92 to R94). -/

namespace Sys2Proof.Machine

open Safety

/-! ### The take-in of R123 -/

section
variable {t : Tables} {s : State} {e : Fin 8} {p : Fin 32} {c : Cause}

/-- The take-in can select the pump's flag. -/
def Selectable (s : State) (p : Fin 32) : Prop := s.ilu.owed.at p ≠ none ∧ (s.psu.pumps.at p).state ≠ .startSent

theorem selects_iff : (stopOwed s p && (s.psu.pumps.at p).state != .startSent) = true ↔ Selectable s p := by
  simp [Selectable, stopOwed, Option.isSome_iff_ne_none]

theorem selectOwed_eq_none : selectOwed s = none ↔ ∀ p, ¬ Selectable s p := by
  simp only [selectOwed, List.find?_eq_none, List.mem_finRange, true_imp_iff, selects_iff]

theorem selectable_of_selectOwed (h : selectOwed s = some p) : Selectable s p := by
  have h' := List.find?_some h
  exact selects_iff.mp h'

theorem selectOwed_first (hp : Selectable s p) (hlt : ∀ q, q < p → ¬ Selectable s q) : selectOwed s = some p :=
  find_first _ p (selects_iff.mpr hp) fun q hq => Bool.eq_false_iff.mpr fun h => hlt q hq (selects_iff.mp h)

/-- No entry is FREE, or no flag can be selected. -/
def NothingToTake (s : State) : Prop := freeEntry s = none ∨ selectOwed s = none

theorem nothing_or_selected (s : State) :
    NothingToTake s ∨ ∃ e p c, freeEntry s = some e ∧ selectOwed s = some p ∧ s.ilu.owed.at p = some c := by
  cases he : freeEntry s with
  | none => exact .inl (.inl he)
  | some e =>
    cases hp : selectOwed s with
    | none => exact .inl (.inr hp)
    | some p =>
      obtain ⟨c, hc⟩ := Option.ne_none_iff_exists'.mp (selectable_of_selectOwed hp).1
      exact .inr ⟨e, p, c, rfl, rfl, hc⟩

theorem takeInRounds_of_nothing (h : NothingToTake s) (n : Nat) : takeInRounds t n s = s := by
  cases n with
  | zero => rfl
  | succ n =>
    rcases h with h | h
    · simp only [takeInRounds, h]
    · cases he : freeEntry s <;> simp only [takeInRounds, h, he]

theorem takeInRounds_selected (he : freeEntry s = some e) (hp : selectOwed s = some p) (hc : s.ilu.owed.at p = some c)
    (n : Nat) : takeInRounds t (n + 1) s = takeInRounds t n (takeInFlag t e p c s) := by
  simp only [takeInRounds, he, hp, hc]

/-- The pumps whose stop-owed flag is set: each round of a take-in clears one. -/
def owedPumps (s : State) : Finset (Fin 32) := {p | s.ilu.owed.at p ≠ none}

theorem mem_owedPumps : p ∈ owedPumps s ↔ s.ilu.owed.at p ≠ none := by simp [owedPumps]

theorem owedPumps_takeInFlag : owedPumps (takeInFlag t e p c s) = (owedPumps s).erase p := by
  ext q
  simp only [mem_owedPumps, Finset.mem_erase, takeInFlag_owed, Tab.at_put]
  split <;> simp_all

/-- As many rounds as flags are set leave nothing to take in, and one more changes nothing. -/
theorem takeInRounds_enough {n : Nat} (hn : (owedPumps s).card ≤ n) :
    NothingToTake (takeInRounds t n s) ∧ takeInRounds t (n + 1) s = takeInRounds t n s := by
  induction n generalizing s with
  | zero =>
    have hnone : NothingToTake s := by
      refine .inr (selectOwed_eq_none.mpr fun p hp => ?_)
      have hmem := mem_owedPumps.mpr hp.1
      rw [Finset.card_eq_zero.mp (Nat.le_zero.mp hn)] at hmem
      exact Finset.notMem_empty p hmem
    exact ⟨hnone, takeInRounds_of_nothing hnone 1⟩
  | succ n ih =>
    rcases nothing_or_selected s with hnone | ⟨e, p, c, he, hp, hc⟩
    · rw [takeInRounds_of_nothing hnone, takeInRounds_of_nothing hnone]
      exact ⟨hnone, rfl⟩
    · rw [takeInRounds_selected he hp hc, takeInRounds_selected he hp hc]
      refine ih ?_
      rw [owedPumps_takeInFlag, Finset.card_erase_of_mem (mem_owedPumps.mpr (by simp [hc]))]
      omega

theorem owedPumps_card_le (s : State) : (owedPumps s).card ≤ 32 := Finset.card_le_univ _

/-- A flag that is clear stays clear. -/
theorem takeInRounds_owed_none (n : Nat) (h : s.ilu.owed.at p = none) : (takeInRounds t n s).ilu.owed.at p = none := by
  induction n generalizing s with
  | zero => exact h
  | succ n ih =>
    rcases nothing_or_selected s with hnone | ⟨e, q, c, he, hq, hc⟩
    · rwa [takeInRounds_of_nothing hnone]
    · rw [takeInRounds_selected he hq hc]
      refine ih ?_
      rw [takeInFlag_owed, Tab.at_put]
      split
      · rfl
      · exact h

theorem takeIn_of_nothing (h : NothingToTake s) : takeIn t s = s := by
  rcases h with h | h <;> simp [takeIn, h]

theorem takeIn_selected (he : freeEntry s = some e) (hp : selectOwed s = some p) :
    takeIn t s = requestPass (takeInRounds t 32 s) := by
  simp [takeIn, he, hp]

/-- But for the request, a take-in is its rounds. -/
theorem takeIn_setRa (t : Tables) (s : State) (r : Ra) : (takeIn t s).setRa r = (takeInRounds t 32 s).setRa r := by
  rcases nothing_or_selected s with hnone | ⟨e, p, c, he, hp, -⟩
  · rw [takeIn_of_nothing hnone, takeInRounds_of_nothing hnone]
  · rw [takeIn_selected he hp]
    rfl

theorem nothingToTake_takeIn (t : Tables) (s : State) : NothingToTake (takeIn t s) := by
  have hend : NothingToTake (takeInRounds t 32 s) := (takeInRounds_enough (owedPumps_card_le s)).1
  rcases nothing_or_selected s with hnone | ⟨e, p, c, he, hp, -⟩
  · rwa [takeIn_of_nothing hnone]
  · rw [takeIn_selected he hp]
    exact hend

end

/-- Settles O19: every round clears the flag it selects, so 32 rounds leave nothing to take in. -/
theorem takeInLeavesNothingToTake : Obligations.TakeInLeavesNothingToTake := by
  intro t s u selectable
  have hnothing : (∀ e, s.ilu.store.at e ≠ .free) ∨ (∀ p, ¬ selectable p) → NothingToTake s :=
    Or.imp freeEntry_eq_none.mpr selectOwed_eq_none.mpr
  refine ⟨fun h => takeIn_of_nothing (hnothing h), fun e p c he hp hlt hc => ?_, ?_, fun h => ?_, fun h => ?_⟩
  · have hselect := selectOwed_first (s := s) hp hlt
    have hfree := freeEntry_first he.1 he.2
    have hfewer : (owedPumps (takeInFlag t e p c s)).card ≤ 31 := by
      rw [owedPumps_takeInFlag, Finset.card_erase_of_mem (mem_owedPumps.mpr hp.1)]
      have := owedPumps_card_le s
      omega
    calc u.setRa s.ra
        = (takeInRounds t 32 s).setRa s.ra := takeIn_setRa t s s.ra
      _ = (takeInRounds t 31 (takeInFlag t e p c s)).setRa s.ra := by rw [takeInRounds_selected hfree hselect hc]
      _ = (takeInRounds t 32 (takeInFlag t e p c s)).setRa s.ra := by rw [← (takeInRounds_enough hfewer).2]
      _ = (takeIn t (takeInFlag t e p c s)).setRa s.ra := (takeIn_setRa t _ s.ra).symm
      _ = (takeIn t (flagTakenIn t e p c s)).setRa s.ra := by rw [takeInFlag_flagTakenIn]
  · refine (nothingToTake_takeIn t s).imp freeEntry_eq_none.mp fun hnone p howed => ?_
    exact not_not.mp fun hstate => selectOwed_eq_none.mp hnone p ⟨howed, hstate⟩
  · rcases nothing_or_selected s with hnone | ⟨e, p, c, he, hp, hc⟩
    · exact takeIn_of_nothing hnone
    · have hcleared : u.ilu.owed.at p = none := by
        show (takeIn t s).ilu.owed.at p = none
        rw [takeIn_selected he hp, show (requestPass (takeInRounds t 32 s)).ilu = (takeInRounds t 32 s).ilu from rfl,
          takeInRounds_selected he hp hc]
        exact takeInRounds_owed_none 31 (by rw [takeInFlag_owed, Tab.at_put_same])
      rw [h, hc] at hcleared
      cases hcleared
  · rcases nothing_or_selected s with hnone | ⟨e, p, c, he, hp, -⟩
    · exact absurd (congrArg (fun x : State => x.ilu.owed) (takeIn_of_nothing (t := t) hnone)) h
    · show (takeIn t s).ra.requests = s.ra.requests + 1
      rw [takeIn_selected he hp]
      simp [requestPass]

/-! ### The effects of a release (R94) -/

section
variable {t : Tables} {s : State} {p : Fin 32}

theorem markReleased_eq (k : Fin 64) (s : State) : markReleased k s =
    (s.setOb (s.ob.put k { s.ob.at k with
        state := .released
        reason := .none
        grant := some s.cbu.now
        mark := false })).setCsu
      { s.csu with missed := if (s.ob.at k).mark = true then satSucc s.csu.missed else s.csu.missed } := by
  simp only [markReleased]
  split <;> rfl

theorem groupReleased_quiet (hquiet : mainGroup t s p = .quiet) (i : Word) : groupReleased t p i s =
    s.setPsu { s.psu with
      groups := s.psu.groups.put (t.houses.at (t.pumps.at p).house).group (.armed (t.pumps.at p).house i) } := by
  have h : groupRec t s p = .quiet := hquiet
  simp only [groupReleased, h]
  rfl

theorem pumpReleased_start (h : (s.psu.pumps.at p).state = .stopped) (run : Nat) : pumpReleased p .start run s =
    s.setPsu { s.psu with pumps := s.psu.pumps.put p { s.psu.pumps.at p with
      state := .startSent, allowance := (s.psu.pumps.at p).allowance - 1, orderedRun := some run } } := by
  simp only [pumpReleased, startReleased, putPump, h, if_true, stoppingState, reduceCtorEq, and_false, if_false]

theorem pumpReleased_running (h : (s.psu.pumps.at p).state = .running) (run : Nat) : pumpReleased p .stop run s =
    (s.setPsu { s.psu with pumps := s.psu.pumps.put p { s.psu.pumps.at p with
      state := .stopSent, runEnd := none, started := false } }).setIlu
      { s.ilu with owed := s.ilu.owed.put p none } := by
  simp only [pumpReleased, stopReleased, putPump, h, stoppingState, ne_eq, reduceCtorEq, not_false_iff, and_self, if_true]
  rfl

theorem pumpReleased_starting (h : (s.psu.pumps.at p).state = .starting) (run : Nat) : pumpReleased p .stop run s =
    (s.setPsu { s.psu with pumps := s.psu.pumps.put p { s.psu.pumps.at p with
      state := .stopSent, confirm := none, orderedRun := none } }).setIlu
      { s.ilu with owed := s.ilu.owed.put p none } := by
  simp only [pumpReleased, stopReleased, putPump, h, stoppingState, ne_eq, reduceCtorEq, not_false_iff, and_self, if_true]
  rfl

theorem pumpReleased_lockout (h : (s.psu.pumps.at p).state = .lockout) (run : Nat) :
    pumpReleased p .stop run s = s.setPsu { s.psu with pumps := s.psu.pumps.put p (s.psu.pumps.at p) } := by
  simp only [pumpReleased, stopReleased, putPump, h, ne_eq, not_true_eq_false, false_and, if_false]

/-- The entries a round withdraws, with its order of judgement (R92, R116). -/
theorem withdrawals_ordered (seq0 : Nat) (s : State) : (withdrawals s seq0).Pairwise fun e f =>
    ∀ o q, s.ilu.store.at e = .waiting o → s.ilu.store.at f = .waiting q →
      epochOffset o.raised s.cbu.now < epochOffset q.raised s.cbu.now
        ∨ (epochOffset o.raised s.cbu.now = epochOffset q.raised s.cbu.now ∧ o.seq ≤ q.seq) := by
  refine List.pairwise_map.mpr ((judgedEntries_ordered seq0 _ s).imp_of_mem fun {x y} hx hy hxy o q ho hq => ?_)
  obtain ⟨⟨hxo, -⟩, -⟩ := mem_judgedEntries.mp hx
  obtain ⟨⟨hyq, -⟩, -⟩ := mem_judgedEntries.mp hy
  cases ho.symm.trans hxo
  cases hq.symm.trans hyq
  exact hxy

end

/-- Settles O16: each release is one write of the list, the origin's store, the pump and the group, and a round's
withdrawals are made one after another in the order of judgement. -/
theorem releaseEffects : Obligations.ReleaseEffects := by
  refine ⟨?_, ?_, ?_⟩
  · intro t k o s r g released hquiet
    refine ⟨fun haction hstate => ?_, fun haction hstate => ?_⟩
    · have hpump : ((markReleased k (appendRelease (.host k) s)).psu.pumps.at o.pump).state = .stopped := by
        rw [markReleased_eq]
        exact hstate
      rw [releaseHost, haction, pumpReleased_start hpump, groupReleased_quiet (by rw [markReleased_eq]; exact hquiet),
        markReleased_eq]
      rfl
    · have hpump : ((markReleased k (appendRelease (.host k) s)).psu.pumps.at o.pump).state = .running := by
        rw [markReleased_eq]
        exact hstate
      rw [releaseHost, haction, pumpReleased_running hpump, groupReleased_quiet (by rw [markReleased_eq]; exact hquiet),
        markReleased_eq]
      rfl
  · intro t e o s r g released hquiet
    refine ⟨fun hstate => ?_, fun hstate => ?_, fun hstate => ?_⟩
    · rw [releaseInternal, pumpReleased_running (by exact hstate), groupReleased_quiet (by exact hquiet)]
      rfl
    · rw [releaseInternal, pumpReleased_starting (by exact hstate), groupReleased_quiet (by exact hquiet)]
      rfl
    · rw [releaseInternal, pumpReleased_lockout (by exact hstate), groupReleased_quiet (by exact hquiet)]
      rfl
  · intro t seq0 s goes before freed
    have hmem (e : Fin 8) : e ∈ withdrawals s seq0 ↔ goes e := by
      simp only [mem_withdrawals, withdrawn_iff]
      rfl
    have hnodup : (withdrawals s seq0).Nodup := judgedEntries_nodup _ _ _
    refine ⟨fun hnone => ?_, fun e he honly => ?_, withdrawals s seq0, hnodup, hmem, withdrawals_ordered seq0 s, rfl⟩
    · have hnil : withdrawals s seq0 = [] := List.eq_nil_iff_forall_not_mem.mpr fun e he => hnone e ((hmem e).mp he)
      simp [withdrawAll, hnil]
    · have hone : withdrawals s seq0 = [e] := by
        refine List.perm_singleton.mp ((List.perm_ext_iff_of_nodup hnodup (List.nodup_singleton e)).mpr fun f => ?_)
        rw [hmem, List.mem_singleton]
        exact ⟨honly f, fun h => h ▸ he⟩
      simp only [withdrawAll, hone]
      rfl

/-! ### The feeder's limit (R65, R85) -/

/-- The committed load as a sum over every pump (R65). -/
theorem committedLoad_eq_sum (t : Tables) (s : State) (f : Fin 4) : committedLoad t s f =
    ∑ p : Fin 32, if p.val < t.pumpCount.val ∧ (t.pumps.at p).feeder = f then contribution t s p else 0 := by
  simp [committedLoad, Tab.sum_numbers, configured]

/-- The release of a START adds at most the pump's starting units to any pump's contribution. -/
theorem contribution_releaseHost {t : Tables} {k : Fin 64} {o : Order} {s : State} (haction : o.action = .start)
    (hstate : (s.psu.pumps.at o.pump).state = .stopped) (p : Fin 32) : contribution t (releaseHost t k o s) p =
      contribution t s p + if p = o.pump then (t.pumps.at p).startingUnits else 0 := by
  have hpumps : (releaseHost t k o s).psu.pumps = s.psu.pumps.put o.pump { s.psu.pumps.at o.pump with
      state := .startSent, allowance := (s.psu.pumps.at o.pump).allowance - 1, orderedRun := some o.run } := by
    rw [releaseHost, groupReleased_pumps, haction, pumpReleased_start (by simpa [appendRelease] using hstate)]
    simp
  have hrsu : (releaseHost t k o s).rsu = s.rsu := by simp
  by_cases hp : p = o.pump
  · subst hp
    simp [contribution, hpumps, hstate]
  · have hat : (releaseHost t k o s).psu.pumps.at p = s.psu.pumps.at p := by rw [hpumps, Tab.at_put_other _ _ hp]
    rw [if_neg hp, Nat.add_zero, contribution, contribution, reportedRunning, reportedRunning, hat, hrsu]

/-- Settles O17: the order's own pump contributes nothing before the release and its starting units after it, and check 12
left room for them. -/
theorem startStaysWithinFeederLimit : Obligations.StartStaysWithinFeederLimit := by
  refine ⟨fun t s f => ?_, fun t k o s haction heligible => ?_⟩
  · rw [committedLoad_eq_sum]
    refine Finset.sum_congr rfl fun p _ => ?_
    simp only [contribution, reportedRunning]
    cases (s.psu.pumps.at p).state <;> rfl
  · obtain ⟨-, -, -, ⟨-, hstart⟩ | ⟨hstop, -⟩⟩ := judgeHost_eligible_iff.mp heligible
    · obtain ⟨hstate, hchecks⟩ := judgeStart_eligible_iff.mp hstart
      obtain ⟨-, -, -, -, -, -, hload, -⟩ := judgeStoppedStart_eligible_iff.mp hchecks
      refine le_trans ?_ (loadAllows_iff.mp hload)
      calc committedLoad t (releaseHost t k o s) (t.pumps.at o.pump).feeder
          ≤ ∑ p : Fin 32, ((if p.val < t.pumpCount.val ∧ (t.pumps.at p).feeder = (t.pumps.at o.pump).feeder
              then contribution t s p else 0) + if p = o.pump then (t.pumps.at p).startingUnits else 0) := by
            rw [committedLoad_eq_sum]
            refine Finset.sum_le_sum fun p _ => ?_
            rw [contribution_releaseHost haction hstate]
            split <;> omega
        _ = committedLoad t s (t.pumps.at o.pump).feeder + (t.pumps.at o.pump).startingUnits := by
            rw [Finset.sum_add_distrib, ← committedLoad_eq_sum, Finset.sum_ite_eq' Finset.univ o.pump]
            simp
    · rw [haction] at hstop
      cases hstop

/-! ### The winner (R77) -/

section
variable {t : Tables} {s : State} {seq0 : Nat}

theorem stoppable_iff {p : Fin 32} : stoppable s p = true ↔ (s.psu.pumps.at p).state = .running
    ∨ (s.psu.pumps.at p).state = .starting
    ∨ ((s.psu.pumps.at p).state = .lockout ∧ s.rsu.runningBits.at p = true) := by
  unfold stoppable
  cases (s.psu.pumps.at p).state <;> simp [reportedRunning]

theorem internalEligible_iff {o : InternalOrder} : internalEligible t s o = true ↔
    stoppable s o.pump = true ∧ groupQuiet t s o.pump = true ∧ hasRoom t s = true
      ∧ (o.kind = .timedStop → passed (s.psu.pumps.at o.pump).minRun s.cbu.now = true) := by
  cases h : o.kind <;> simp [internalEligible, h, and_assoc]

theorem internalWinner_eq_none : internalWinner t seq0 s = none ↔ internalCandidates t seq0 s = [] := List.head?_eq_none_iff

/-- The entry that wins is raised no later than any other candidate (R77, R116). -/
theorem internalWinner_first {e : Fin 8} {o : InternalOrder} (h : internalWinner t seq0 s = some (e, o)) {f : Fin 8}
    {q : InternalOrder} (hq : (f, q) ∈ internalCandidates t seq0 s) :
    epochOffset o.raised s.cbu.now < epochOffset q.raised s.cbu.now
      ∨ (epochOffset o.raised s.cbu.now = epochOffset q.raised s.cbu.now ∧ o.seq ≤ q.seq) := by
  have hordered := judgedEntries_ordered seq0 (internalEligible t s) s
  obtain ⟨rest, hrest⟩ := List.head?_eq_some_iff.mp h
  rw [show judgedEntries seq0 (internalEligible t s) s = (e, o) :: rest from hrest] at hordered
  rw [hrest] at hq
  rcases List.mem_cons.mp hq with heq | hmem
  · cases heq
    exact .inr ⟨rfl, Nat.le_refl _⟩
  · exact List.rel_of_pairwise_cons hordered hmem

theorem hostCandidates_eq_nil : hostCandidates t s = [] ↔
    ∀ k o, k.val < t.map.ringSize.slots → waitingOrder (s.ob.at k) = some o → judgeHost t s k o ≠ .eligible := by
  rw [List.eq_nil_iff_forall_not_mem]
  exact ⟨fun h k o hk ho heligible => h (k, o) (mem_hostCandidates.mpr ⟨hk, ho, heligible⟩),
    fun h x hx => by
      obtain ⟨hk, ho, heligible⟩ := mem_hostCandidates.mp hx
      exact h x.1 x.2 hk ho heligible⟩

theorem refusesAny_iff : refusesAny t s = true ↔
    ∃ k o r, waitingOrder (s.ob.at k) = some o ∧ judgeHost t s k o = .refuse r := by
  simp only [refusesAny, List.any_eq_true, List.mem_finRange, true_and]
  refine exists_congr fun k => ?_
  cases ho : waitingOrder (s.ob.at k) with
  | none => simp
  | some o => cases hv : judgeHost t s k o <;> simp [hv]

end

/-- Settles O15. -/
theorem winnerRule : Obligations.WinnerRule := by
  refine fun t seq0 s => ⟨fun e o h => ⟨mem_of_internalWinner h, fun f q hq => internalWinner_first h hq⟩,
    internalWinner_eq_none, fun e o => ?_, fun k o h => ?_, hostWinner_eq_none, hostCandidates_eq_nil, ?_, ?_⟩
  · simp only [mem_internalCandidates, internalEligible_iff, stoppable_iff, groupQuiet_iff, hasRoom_iff, passed_iff,
      and_assoc]
  · obtain ⟨hmem, hbest⟩ := hostWinner_eq_some h
    obtain ⟨hk, ho, heligible⟩ := mem_hostCandidates.mp hmem
    exact ⟨hk, ho, heligible, fun j q hj hq hq' => hbest j q (mem_hostCandidates.mpr ⟨hj, hq, hq'⟩)⟩
  · intro refuses written
    have hrefuses : refusesAny t s = true ↔ refuses := refusesAny_iff
    have hwritten : recordJudgements t s = raiseFlagIf (refusesAny t s) .orderRefused written := rfl
    refine ⟨fun h => ?_, fun h => ?_⟩
    · rw [hwritten, hrefuses.mpr h]
      rfl
    · rw [hwritten, Bool.eq_false_iff.mpr (mt hrefuses.mp h)]
      rfl
  · intro judged
    rcases releaseRound_cases t seq0 s with ⟨e, o, hwin, hstate, -⟩ | ⟨hnone, k, o, hwin, hstate, -⟩ |
      ⟨hnone, hhost, hstate, -⟩
    · refine ⟨fun f q hq => ?_, fun h => ?_⟩
      · cases hwin.symm.trans hq
        exact hstate
      · cases hwin.symm.trans h
    · refine ⟨fun f q hq => ?_, fun _ => ⟨fun j q hq => ?_, fun h => ?_⟩⟩
      · cases hnone.symm.trans hq
      · cases hwin.symm.trans hq
        exact hstate
      · cases hwin.symm.trans h
    · refine ⟨fun f q hq => ?_, fun _ => ⟨fun j q hq => ?_, fun _ => hstate⟩⟩
      · cases hnone.symm.trans hq
      · cases hhost.symm.trans hq

end Sys2Proof.Machine

/-! PROOFS. The release pass (R73 to R78): its expiry stage, what its rounds leave as it was, and why at most 73 of them
end it (R76). -/

namespace Sys2Proof.Machine

open Safety

section
variable {t : Tables} {s s' s'' : State} {seq0 : Nat}

/-! ### The stages of a pass -/

theorem exec_releasePass {n : Nat} (hreq : s.ra.requests = n + 1) (ht : s.tables = some t) :
    exec .releasePass s = .next (releasePass t (s.setRa { requests := n })) := by
  have h : takePass s = releasePass t (s.setRa { requests := n }) := by simp only [takePass, hreq, ht]
  rw [← h]
  rfl

theorem expiresAny_iff : expiresAny s = true ↔
    ∃ k o, waitingOrder (s.ob.at k) = some o ∧ isBelow o.latest s.cbu.now = true := by
  simp [expiresAny, lateOrder, Option.any_eq_true]

theorem expireLate_of_none (h : expiresAny s = false) : expireLate s = s := by
  have hob : s.setOb (Tab.ofFn fun k =>
      if lateOrder s.cbu.now (s.ob.at k) then leaveWaiting .expired (s.ob.at k).reason (s.ob.at k) else s.ob.at k) = s := by
    have hlate (k : Fin 64) : lateOrder s.cbu.now (s.ob.at k) = false :=
      Bool.eq_false_iff.mpr (List.any_eq_false.mp h k (List.mem_finRange k))
    have hsame : (Tab.ofFn fun k => if lateOrder s.cbu.now (s.ob.at k) then
        leaveWaiting .expired (s.ob.at k).reason (s.ob.at k) else s.ob.at k) = s.ob := by
      ext k
      simp [hlate]
    rw [hsame]
    rfl
  rw [expireLate, h]
  exact hob

/-- A pass is its rounds, with or without the reclaim advance after them. -/
theorem releasePass_eq (t : Tables) (s : State) :
    releasePass t s = (releaseRounds t s.ilu.nextSeq 73 (expireLate s)).1
      ∨ releasePass t s = reclaimAdvance t (releaseRounds t s.ilu.nextSeq 73 (expireLate s)).1 := by
  simp only [releasePass]
  generalize releaseRounds t s.ilu.nextSeq 73 (expireLate s) = r
  split
  next => exact .inr rfl
  next => exact .inl rfl

theorem withdrawAll_of_nil (h : withdrawals s seq0 = []) : withdrawAll t seq0 s = s := by
  simp [withdrawAll, h]

theorem releaseRounds_progressed (h : (releaseRound t seq0 s).progressed = true) (n : Nat) :
    (releaseRounds t seq0 (n + 1) s).1 = (releaseRounds t seq0 n (releaseRound t seq0 s).state).1 := by
  simp only [releaseRounds, h, if_true]

theorem releaseRounds_settled (h : (releaseRound t seq0 s).progressed = false) (n : Nat) :
    releaseRounds t seq0 (n + 1) s = ((releaseRound t seq0 s).state, (releaseRound t seq0 s).hostMoved) := by
  simp only [releaseRounds, h, Bool.false_eq_true, if_false]

/-- What holds from before to after every round holds from before to after all of them. -/
theorem releaseRounds_rel {R : State → State → Prop} (refl : ∀ s, R s s) (trans : ∀ a b c, R a b → R b c → R a c)
    (round : ∀ s, R s (releaseRound t seq0 s).state) (n : Nat) (s : State) : R s (releaseRounds t seq0 n s).1 := by
  induction n generalizing s with
  | zero => exact refl s
  | succ n ih =>
    cases h : (releaseRound t seq0 s).progressed with
    | true => rw [releaseRounds_progressed h]; exact trans _ _ _ (round s) (ih _)
    | false => rw [releaseRounds_settled h]; exact round s

/-- And from after the first round on. -/
theorem releaseRounds_after {R : State → State → Prop} (refl : ∀ s, R s s) (trans : ∀ a b c, R a b → R b c → R a c)
    (round : ∀ s, R s (releaseRound t seq0 s).state) {n : Nat} (hn : n ≠ 0) (s : State) :
    R (releaseRound t seq0 s).state (releaseRounds t seq0 n s).1 := by
  obtain ⟨n, rfl⟩ := Nat.exists_eq_succ_of_ne_zero hn
  cases h : (releaseRound t seq0 s).progressed with
  | true => rw [releaseRounds_progressed h]; exact releaseRounds_rel refl trans round n _
  | false => rw [releaseRounds_settled h]; exact refl _

/-! ### What the rounds leave as it was -/

/-- The Command and Status Unit changes in flags raised only, and no counter goes back. -/
structure FlagsGrown (s s' : State) : Prop where
  csu : ∃ raised, s'.csu = { s.csu with flags := s.csu.flags ||| raised }
  requests : s.ra.requests ≤ s'.ra.requests
  nextSeq : s.ilu.nextSeq ≤ s'.ilu.nextSeq

theorem FlagsGrown.of_eq (hcsu : s'.csu = s.csu) (hra : s'.ra = s.ra) (hseq : s'.ilu.nextSeq = s.ilu.nextSeq) :
    FlagsGrown s s' := ⟨⟨0, by simp [hcsu]⟩, by rw [hra], by rw [hseq]⟩

theorem FlagsGrown.refl (s : State) : FlagsGrown s s := .of_eq rfl rfl rfl

theorem FlagsGrown.trans (h : FlagsGrown s s') (h' : FlagsGrown s' s'') : FlagsGrown s s'' := by
  obtain ⟨raised, hcsu⟩ := h.csu
  obtain ⟨raised', hcsu'⟩ := h'.csu
  refine ⟨⟨raised ||| raised', ?_⟩, h.requests.trans h'.requests, h.nextSeq.trans h'.nextSeq⟩
  rw [hcsu', hcsu]
  simp [BitVec.or_assoc]

theorem FlagsGrown.csu_eq (h : FlagsGrown s s') : s'.csu = { s.csu with flags := s'.csu.flags } := by
  obtain ⟨raised, hcsu⟩ := h.csu
  rw [hcsu]

theorem flagsGrown_raiseFlagIf (b : Bool) (f : EventFlag) (s : State) : FlagsGrown s (raiseFlagIf b f s) := by
  cases b
  · exact .refl s
  · exact ⟨⟨flagMask f, rfl⟩, Nat.le_refl _, Nat.le_refl _⟩

theorem flagsGrown_requestPass (s : State) : FlagsGrown s (requestPass s) :=
  ⟨⟨0, by simp⟩, Nat.le_succ _, Nat.le_refl _⟩

theorem flagsGrown_raiseEntry (e : Fin 8) (p : Fin 32) (c : Cause) (s : State) : FlagsGrown s (raiseEntry e p c s) := by
  refine FlagsGrown.trans ⟨⟨0, ?_⟩, ?_, ?_⟩ (flagsGrown_raiseFlagIf _ _ _)
  · simp
  · exact Nat.le_refl _
  · exact Nat.le_succ _

theorem flagsGrown_takeInFlag (t : Tables) (e : Fin 8) (p : Fin 32) (c : Cause) (s : State) :
    FlagsGrown s (takeInFlag t e p c s) := by
  rcases takeInFlag_cases t e p c s with ⟨d, h⟩ | h <;> rw [h]
  · exact flagsGrown_raiseEntry e p d s
  · exact .of_eq rfl rfl rfl

theorem flagsGrown_takeIn (t : Tables) (s : State) : FlagsGrown s (takeIn t s) := by
  have hrounds (n : Nat) (s : State) : FlagsGrown s (takeInRounds t n s) := by
    induction n generalizing s with
    | zero => exact .refl s
    | succ n ih =>
      rcases nothing_or_selected s with hnone | ⟨e, p, c, he, hp, hc⟩
      · rw [takeInRounds_of_nothing hnone]
        exact .refl s
      · rw [takeInRounds_selected he hp hc]
        exact (flagsGrown_takeInFlag t e p c s).trans (ih _)
  rcases nothing_or_selected s with hnone | ⟨e, p, c, he, hp, -⟩
  · rw [takeIn_of_nothing hnone]
    exact .refl s
  · rw [takeIn_selected he hp]
    exact (hrounds 32 s).trans (flagsGrown_requestPass _)

theorem flagsGrown_freeStoreEntry (t : Tables) (e : Fin 8) (s : State) : FlagsGrown s (freeStoreEntry t e s) :=
  (FlagsGrown.of_eq (s := s) (s' := s.setIlu { s.ilu with store := s.ilu.store.put e .free }) rfl rfl rfl).trans
    (flagsGrown_takeIn t _)

theorem flagsGrown_withdrawAll (t : Tables) (seq0 : Nat) (s : State) : FlagsGrown s (withdrawAll t seq0 s) := by
  simp only [withdrawAll]
  generalize withdrawals s seq0 = l
  induction l generalizing s with
  | nil => exact .refl s
  | cons e l ih => exact (flagsGrown_freeStoreEntry t e s).trans (ih _)

theorem flagsGrown_recordJudgements (t : Tables) (s : State) : FlagsGrown s (recordJudgements t s) :=
  (FlagsGrown.of_eq (s := s) (s' := s.setOb (Tab.ofFn fun k => judgedEntry t s k)) rfl rfl rfl).trans
    (flagsGrown_raiseFlagIf (refusesAny t s) .orderRefused _)

theorem flagsGrown_expireLate (s : State) : FlagsGrown s (expireLate s) :=
  (FlagsGrown.of_eq (s := s) (s' := s.setOb (Tab.ofFn fun k =>
      if lateOrder s.cbu.now (s.ob.at k) then leaveWaiting .expired (s.ob.at k).reason (s.ob.at k) else s.ob.at k))
    rfl rfl rfl).trans (flagsGrown_raiseFlagIf (expiresAny s) .orderExpired _)

theorem putPump_nextSeq (p : Fin 32) (r : PumpRec) (s : State) : (putPump p r s).ilu.nextSeq = s.ilu.nextSeq := by
  rw [putPump_ilu]
  split <;> rfl

theorem pumpReleased_nextSeq (p : Fin 32) (a : Action) (run : Nat) (s : State) :
    (pumpReleased p a run s).ilu.nextSeq = s.ilu.nextSeq := by
  cases a <;> exact putPump_nextSeq _ _ _

theorem flagsGrown_releaseInternal (t : Tables) (e : Fin 8) (o : InternalOrder) (s : State) :
    FlagsGrown s (releaseInternal t e o s) := by
  refine .of_eq ?_ ?_ ?_
  · simp
  · simp
  · simp [releaseInternal, pumpReleased_nextSeq, markEntryReleased]

/-- As through a round, where a host order released may add to the sweep's count of missed orders (R190). -/
structure PassGrown (s s' : State) : Prop where
  csu : ∃ raised missed, s'.csu = { s.csu with flags := s.csu.flags ||| raised, missed }
  requests : s.ra.requests ≤ s'.ra.requests
  nextSeq : s.ilu.nextSeq ≤ s'.ilu.nextSeq

theorem FlagsGrown.passGrown (h : FlagsGrown s s') : PassGrown s s' := by
  obtain ⟨⟨raised, hcsu⟩, hrequests, hseq⟩ := h
  exact ⟨⟨raised, s.csu.missed, hcsu⟩, hrequests, hseq⟩

theorem PassGrown.refl (s : State) : PassGrown s s := (FlagsGrown.refl s).passGrown

theorem PassGrown.trans (h : PassGrown s s') (h' : PassGrown s' s'') : PassGrown s s'' := by
  obtain ⟨raised, missed, hcsu⟩ := h.csu
  obtain ⟨raised', missed', hcsu'⟩ := h'.csu
  refine ⟨⟨raised ||| raised', missed', ?_⟩, h.requests.trans h'.requests, h.nextSeq.trans h'.nextSeq⟩
  rw [hcsu', hcsu]
  simp [BitVec.or_assoc]

theorem PassGrown.flagSet (h : PassGrown s s') {f : EventFlag} (hf : flagSet s f = true) : Machine.flagSet s' f = true := by
  obtain ⟨raised, missed, hcsu⟩ := h.csu
  simp only [Machine.flagSet, hcsu, BitVec.getLsbD_or, Bool.or_eq_true]
  exact .inl hf

theorem PassGrown.csu_eq (h : PassGrown s s') : s'.csu = { s.csu with flags := s'.csu.flags, missed := s'.csu.missed } := by
  obtain ⟨raised, missed, hcsu⟩ := h.csu
  rw [hcsu]

theorem passGrown_releaseHost (t : Tables) (k : Fin 64) (o : Order) (s : State) : PassGrown s (releaseHost t k o s) := by
  refine ⟨⟨0, if (s.ob.at k).mark = true then satSucc s.csu.missed else s.csu.missed, ?_⟩, ?_, ?_⟩
  · simp [releaseHost, markReleased_eq, appendRelease]
    rfl
  · simp [releaseHost]
  · simp [releaseHost, pumpReleased_nextSeq]

theorem passGrown_releaseRound (t : Tables) (seq0 : Nat) (s : State) : PassGrown s (releaseRound t seq0 s).state := by
  have hwritten := ((flagsGrown_withdrawAll t seq0 s).trans (flagsGrown_recordJudgements t _)).passGrown
  rcases releaseRound_cases t seq0 s with ⟨e, o, -, h, -⟩ | ⟨-, k, o, -, h, -⟩ | ⟨-, -, h, -⟩ <;> rw [h]
  · exact hwritten.trans (flagsGrown_releaseInternal t e o _).passGrown
  · exact hwritten.trans (passGrown_releaseHost t k o _)
  · exact hwritten

/-- An entry that is not WAITING stands as it is. -/
def SettledKept (s s' : State) : Prop := ∀ k, waitingOrder (s.ob.at k) = none → s'.ob.at k = s.ob.at k

theorem SettledKept.refl (s : State) : SettledKept s s := fun _ _ => rfl

theorem SettledKept.trans (h : SettledKept s s') (h' : SettledKept s' s'') : SettledKept s s'' := fun k hk => by
  have hfirst := h k hk
  exact (h' k (by rw [hfirst, hk])).trans hfirst

theorem settledKept_recordJudgements (t : Tables) (s : State) : SettledKept s (recordJudgements t s) := fun k hk => by
  rw [recordJudgements_ob]
  simp only [judgedEntry, hk]

theorem settledKept_releaseRound (t : Tables) (seq0 : Nat) (s : State) : SettledKept s (releaseRound t seq0 s).state := by
  have hwritten : SettledKept s (recordJudgements t (withdrawAll t seq0 s)) :=
    SettledKept.trans (s' := withdrawAll t seq0 s) (fun k _ => by simp) (settledKept_recordJudgements t _)
  rcases releaseRound_cases t seq0 s with ⟨e, o, -, h, -⟩ | ⟨-, k, o, hwin, h, -⟩ | ⟨-, -, h, -⟩ <;> rw [h]
  · exact hwritten.trans fun k _ => by simp
  · refine hwritten.trans fun j hj => ?_
    have hne : j ≠ k := fun heq => by
      rw [heq, waitingOrder_of_hostWinner hwin] at hj
      cases hj
    rw [releaseHost_ob, Tab.at_put_other _ _ hne]
  · exact hwritten

/-- A RELEASED internal entry stays so until its notice. -/
theorem released_releaseRound (t : Tables) (seq0 : Nat) {e : Fin 8} {o : InternalOrder} {g : Epoch}
    (h : s.ilu.store.at e = .released o g) : (releaseRound t seq0 s).state.ilu.store.at e = .released o g := by
  have hwritten : (recordJudgements t (withdrawAll t seq0 s)).ilu.store.at e = .released o g := by
    rw [show (recordJudgements t (withdrawAll t seq0 s)).ilu = (withdrawAll t seq0 s).ilu by simp]
    exact (sameStore_withdrawAll t seq0 e o g).mpr h
  rcases releaseRound_cases t seq0 s with ⟨f, q, hwin, h, -⟩ | ⟨-, k, q, -, h, -⟩ | ⟨-, -, h, -⟩ <;> rw [h]
  · have hne : e ≠ f := fun heq => by
      obtain ⟨⟨hwaiting, -⟩, -⟩ := mem_internalCandidates.mp (mem_of_internalWinner hwin)
      rw [show (recordJudgements t (withdrawAll t seq0 s)).ilu = (withdrawAll t seq0 s).ilu by simp, heq, hwaiting] at hwritten
      cases hwritten
    rw [releaseInternal_store, Tab.at_put_other _ _ hne, hwritten]
  · rw [releaseHost_store, hwritten]
  · exact hwritten

end

/-! ### Outside RUN -/

/-- Settles O12: outside RUN every WAITING order is held, so the only round makes no release and no refusal. -/
theorem passOutsideRunHoldsEveryOrder : Obligations.PassOutsideRunHoldsEveryOrder := by
  intro s t n hreq ht hsched hlate hstore
  obtain ⟨x, hx⟩ : ∃ x, x = s.setRa { requests := n } := ⟨_, rfl⟩
  have hob : x.ob = s.ob := by rw [hx]; rfl
  have hheld (k : Fin 64) (o : Order) : judgeHost t x k o = .hold .held := by
    have hrun : x.csu.sched ≠ .run := by rw [hx]; exact hsched
    simp [judgeHost, hrun]
  have hexpires : expiresAny x = false := by
    refine Bool.eq_false_iff.mpr fun h => ?_
    obtain ⟨k, o, ho, hbelow⟩ := expiresAny_iff.mp h
    rw [hx] at ho hbelow
    exact Bool.eq_false_iff.mp (hlate k o ho) hbelow
  have hwaiting (e : Fin 8) (o : InternalOrder) : x.ilu.store.at e ≠ .waiting o := by rw [hx]; exact hstore e o
  have hwithdrawals : withdrawals x x.ilu.nextSeq = [] := by
    refine List.eq_nil_iff_forall_not_mem.mpr fun e he => ?_
    obtain ⟨o, ho, -⟩ := mem_withdrawals.mp he
    exact hwaiting e o ho
  have hinternal : internalWinner t x.ilu.nextSeq x = none := by
    refine internalWinner_eq_none.mpr (List.eq_nil_iff_forall_not_mem.mpr fun y hy => ?_)
    exact hwaiting y.1 y.2 (mem_internalCandidates.mp hy).1.1
  have hhost : hostWinner t x = none :=
    hostWinner_eq_none.mpr (hostCandidates_eq_nil.mpr fun k o _ _ h => by rw [hheld] at h; cases h)
  have hrefuses : refusesAny t x = false := by
    refine Bool.eq_false_iff.mpr fun h => ?_
    obtain ⟨k, o, r, -, hr⟩ := refusesAny_iff.mp h
    rw [hheld] at hr
    cases hr
  have hwritten : recordJudgements t x = x.setOb (Tab.ofFn fun k =>
      if (waitingOrder (x.ob.at k)).isSome then { x.ob.at k with reason := .held } else x.ob.at k) := by
    have hentry (k : Fin 64) : judgedEntry t x k =
        if (waitingOrder (x.ob.at k)).isSome then { x.ob.at k with reason := .held } else x.ob.at k := by
      cases ho : waitingOrder (x.ob.at k) <;> simp [judgedEntry, ho, hheld]
    rw [recordJudgements, hrefuses, funext hentry]
    rfl
  have hround : (releaseRound t x.ilu.nextSeq x).state = recordJudgements t x
      ∧ (releaseRound t x.ilu.nextSeq x).progressed = false ∧ (releaseRound t x.ilu.nextSeq x).hostMoved = false := by
    have hstay : withdrawAll t x.ilu.nextSeq x = x := withdrawAll_of_nil hwithdrawals
    rcases releaseRound_cases t x.ilu.nextSeq x with ⟨e, o, h, -⟩ | ⟨-, k, o, h, -⟩ | ⟨-, -, hstate, hprogressed, hmoved⟩
    · rw [hstay, hinternal] at h
      cases h
    · rw [hstay, hhost] at h
      cases h
    · rw [hstay] at hstate hprogressed hmoved
      exact ⟨hstate, by rw [hprogressed, hrefuses, hwithdrawals]; rfl, hmoved.trans hrefuses⟩
  obtain ⟨hstate, hprogressed, hmoved⟩ := hround
  have hpass : releasePass t x = recordJudgements t x := by
    rw [releasePass, expireLate_of_none hexpires, releaseRounds_settled hprogressed, hexpires, hmoved, hstate]
    rfl
  rw [exec_releasePass hreq ht, ← hx, hpass, hwritten, hob]

end Sys2Proof.Machine

/-! PROOFS. Why a release pass ends (R76), and what it does whole (R73 to R78). -/

namespace Sys2Proof.Machine

open Safety

section
variable {t : Tables} {s s' : State} {seq0 : Nat}

/-! ### Each round that goes on leaves less to judge -/

/-- The WAITING host orders. -/
def waitingSlots (s : State) : Finset (Fin 64) := {k | (waitingOrder (s.ob.at k)).isSome = true}

/-- The internal entries under judgement: the WAITING entries of the pass's beginning. -/
def judgedStore (seq0 : Nat) (s : State) : Finset (Fin 8) := {e | (candidateOrder seq0 (s.ilu.store.at e)).isSome = true}

theorem mem_waitingSlots {k : Fin 64} : k ∈ waitingSlots s ↔ ∃ o, waitingOrder (s.ob.at k) = some o := by
  simp [waitingSlots, Option.isSome_iff_exists]

theorem mem_judgedStore {e : Fin 8} : e ∈ judgedStore seq0 s ↔ ∃ o, s.ilu.store.at e = .waiting o ∧ o.seq < seq0 := by
  simp [judgedStore, Option.isSome_iff_exists, candidateOrder_eq_some]

/-- What a pass still has to judge: 64 host orders and 8 entries at most. -/
def leftToJudge (seq0 : Nat) (s : State) : Nat := (waitingSlots s).card + (judgedStore seq0 s).card

theorem leftToJudge_le (seq0 : Nat) (s : State) : leftToJudge seq0 s ≤ 72 :=
  Nat.add_le_add (Finset.card_le_univ _) (Finset.card_le_univ _)

theorem leftToJudge_lt (hslots : waitingSlots s' ⊆ waitingSlots s) (hstore : judgedStore seq0 s' ⊆ judgedStore seq0 s)
    (h : (∃ k ∈ waitingSlots s, k ∉ waitingSlots s') ∨ ∃ e ∈ judgedStore seq0 s, e ∉ judgedStore seq0 s') :
    leftToJudge seq0 s' < leftToJudge seq0 s := by
  rcases h with ⟨k, hk, hk'⟩ | ⟨e, he, he'⟩
  · exact Nat.add_lt_add_of_lt_of_le (Finset.card_lt_card ⟨hslots, fun h => hk' (h hk)⟩) (Finset.card_le_card hstore)
  · exact Nat.add_lt_add_of_le_of_lt (Finset.card_le_card hslots) (Finset.card_lt_card ⟨hstore, fun h => he' (h he)⟩)

theorem mem_judgedStore_withdrawAll (h : seq0 ≤ s.ilu.nextSeq) {e : Fin 8} :
    e ∈ judgedStore seq0 (withdrawAll t seq0 s) ↔ e ∈ judgedStore seq0 s ∧ e ∉ withdrawals s seq0 := by
  simp only [judgedStore, Finset.mem_filter, Finset.mem_univ, true_and]
  rw [withdrawAll, candidateOrder_freed t seq0 _ s h e]
  split
  next hw => simp [hw]
  next hw => simp [hw]

theorem waitingSlots_releaseRound : waitingSlots (releaseRound t seq0 s).state ⊆ waitingSlots s := by
  intro k hk
  obtain ⟨o, ho⟩ := mem_waitingSlots.mp hk
  exact mem_waitingSlots.mpr ⟨o, (entriesKept_releaseRound t seq0 s).waiting k o ho⟩

/-- The store after a round's withdrawals and its release, if it makes one. -/
theorem judgedStore_releaseRound (h : seq0 ≤ s.ilu.nextSeq) {e : Fin 8}
    (he : e ∈ judgedStore seq0 (releaseRound t seq0 s).state) :
    e ∈ judgedStore seq0 s ∧ e ∉ withdrawals s seq0
      ∧ ∀ f q, internalWinner t seq0 (withdrawAll t seq0 s) = some (f, q) → e ≠ f := by
  have hilu : (recordJudgements t (withdrawAll t seq0 s)).ilu = (withdrawAll t seq0 s).ilu := by simp
  rcases releaseRound_cases t seq0 s with ⟨f, q, hwin, hstate, -⟩ | ⟨hnone, k, q, -, hstate, -⟩ | ⟨hnone, -, hstate, -⟩
  · obtain ⟨o, ho, hlt⟩ := mem_judgedStore.mp he
    rw [hstate, releaseInternal_store, Tab.at_put, hilu] at ho
    split at ho
    next => cases ho
    next hne =>
      obtain ⟨hmem, hkept⟩ := (mem_judgedStore_withdrawAll h).mp (mem_judgedStore.mpr ⟨o, ho, hlt⟩)
      refine ⟨hmem, hkept, fun f' q' hwin' => ?_⟩
      cases hwin.symm.trans hwin'
      exact hne
  · rw [hstate] at he
    obtain ⟨o, ho, hlt⟩ := mem_judgedStore.mp he
    rw [releaseHost_store, hilu] at ho
    obtain ⟨hmem, hkept⟩ := (mem_judgedStore_withdrawAll h).mp (mem_judgedStore.mpr ⟨o, ho, hlt⟩)
    exact ⟨hmem, hkept, fun f q hwin => by rw [hnone] at hwin; cases hwin⟩
  · rw [hstate] at he
    obtain ⟨o, ho, hlt⟩ := mem_judgedStore.mp he
    rw [hilu] at ho
    obtain ⟨hmem, hkept⟩ := (mem_judgedStore_withdrawAll h).mp (mem_judgedStore.mpr ⟨o, ho, hlt⟩)
    exact ⟨hmem, hkept, fun f q hwin => by rw [hnone] at hwin; cases hwin⟩

/-- An order refused at evaluation waits no more. -/
theorem recordJudgements_refused {k : Fin 64} {o : Order} {r : Reason} (ho : waitingOrder (s.ob.at k) = some o)
    (h : judgeHost t s k o = .refuse r) : (recordJudgements t s).ob.at k = leaveWaiting .refused r (s.ob.at k) := by
  simp [recordJudgements_ob, judgedEntry, ho, h]

theorem refused_releaseRound {k : Fin 64} {o : Order} {r : Reason} (ho : waitingOrder (s.ob.at k) = some o)
    (h : judgeHost t (withdrawAll t seq0 s) k o = .refuse r) :
    (releaseRound t seq0 s).state.ob.at k = leaveWaiting .refused r (s.ob.at k) := by
  have hob : (withdrawAll t seq0 s).ob = s.ob := by simp
  have hwritten : (recordJudgements t (withdrawAll t seq0 s)).ob.at k = leaveWaiting .refused r (s.ob.at k) := by
    rw [recordJudgements_refused (by rw [hob]; exact ho) h, hob]
  rcases releaseRound_cases t seq0 s with ⟨e, q, -, hstate, -⟩ | ⟨-, j, q, hwin, hstate, -⟩ | ⟨-, -, hstate, -⟩ <;>
    rw [hstate]
  · rw [show (releaseInternal t e q (recordJudgements t (withdrawAll t seq0 s))).ob = _ from
      (releaseInternal_keeps t e q _).2.2.1, hwritten]
  · have hne : k ≠ j := fun heq => by
      have hwaiting := waitingOrder_of_hostWinner hwin
      rw [← heq, hwritten, waitingOrder_leaveWaiting (by decide)] at hwaiting
      cases hwaiting
    rw [releaseHost_ob, Tab.at_put_other _ _ hne, hwritten]
  · exact hwritten

/-- A round that releases, refuses or withdraws leaves less to judge. -/
theorem releaseRound_progress (h : seq0 ≤ s.ilu.nextSeq) (hprogressed : (releaseRound t seq0 s).progressed = true) :
    leftToJudge seq0 (releaseRound t seq0 s).state < leftToJudge seq0 s := by
  refine leftToJudge_lt waitingSlots_releaseRound (fun e he => (judgedStore_releaseRound h he).1) ?_
  have hob : (withdrawAll t seq0 s).ob = s.ob := by simp
  rcases releaseRound_cases t seq0 s with ⟨e, o, hwin, -⟩ | ⟨-, k, o, hwin, hstate, -⟩ | ⟨-, -, -, hgoes, -⟩
  · obtain ⟨⟨hwaiting, hlt⟩, -⟩ := mem_internalCandidates.mp (mem_of_internalWinner hwin)
    have hmem := (mem_judgedStore_withdrawAll (t := t) h).mp (mem_judgedStore.mpr ⟨o, hwaiting, hlt⟩)
    exact .inr ⟨e, hmem.1, fun he => (judgedStore_releaseRound h he).2.2 e o hwin rfl⟩
  · obtain ⟨-, ho, -⟩ := mem_hostCandidates.mp (hostWinner_eq_some hwin).1
    refine .inl ⟨k, mem_waitingSlots.mpr ⟨o, by rwa [hob] at ho⟩, fun hk => ?_⟩
    obtain ⟨q, hq⟩ := mem_waitingSlots.mp hk
    rw [hstate, releaseHost_ob, Tab.at_put_same] at hq
    simp [waitingOrder, leaveWaiting] at hq
  · rw [hprogressed] at hgoes
    rcases Bool.or_eq_true_iff.mp hgoes.symm with hrefuses | hwithdraws
    · obtain ⟨k, o, r, ho, hr⟩ := refusesAny_iff.mp hrefuses
      rw [hob] at ho
      refine .inl ⟨k, mem_waitingSlots.mpr ⟨o, ho⟩, fun hk => ?_⟩
      obtain ⟨q, hq⟩ := mem_waitingSlots.mp hk
      rw [refused_releaseRound ho hr, waitingOrder_leaveWaiting (by decide)] at hq
      cases hq
    · have hne : withdrawals s seq0 ≠ [] := fun hnil => by simp [hnil] at hwithdraws
      obtain ⟨e, he⟩ := List.exists_mem_of_ne_nil _ hne
      obtain ⟨o, ho, hlt, -⟩ := mem_withdrawals.mp he
      exact .inr ⟨e, mem_judgedStore.mpr ⟨o, ho, hlt⟩, fun he' => (judgedStore_releaseRound h he').2.1 he⟩

/-- One round more than there is to judge meets a round that makes no progress, and further ones are not run. -/
theorem releaseRounds_enough {n : Nat} (h : seq0 ≤ s.ilu.nextSeq) (hn : leftToJudge seq0 s ≤ n) :
    releaseRounds t seq0 (n + 2) s = releaseRounds t seq0 (n + 1) s
      ∧ ∃ x, (releaseRound t seq0 x).progressed = false
          ∧ (releaseRounds t seq0 (n + 1) s).1 = (releaseRound t seq0 x).state := by
  induction n generalizing s with
  | zero =>
    have hstop : (releaseRound t seq0 s).progressed = false := by
      refine Bool.eq_false_iff.mpr fun hprogressed => ?_
      have := releaseRound_progress h hprogressed
      omega
    rw [releaseRounds_settled hstop, releaseRounds_settled hstop]
    exact ⟨rfl, s, hstop, rfl⟩
  | succ n ih =>
    cases hprogressed : (releaseRound t seq0 s).progressed with
    | false =>
      rw [releaseRounds_settled hprogressed, releaseRounds_settled hprogressed]
      exact ⟨rfl, s, hprogressed, rfl⟩
    | true =>
      have hless := releaseRound_progress h hprogressed
      obtain ⟨hsame, x, hx, hend⟩ := ih (h.trans (passGrown_releaseRound t seq0 s).nextSeq) (by omega)
      refine ⟨?_, x, hx, by rw [releaseRounds_progressed hprogressed, hend]⟩
      have hstep (m : Nat) : releaseRounds t seq0 (m + 1) s =
          ((releaseRounds t seq0 m (releaseRound t seq0 s).state).1,
            (releaseRound t seq0 s).hostMoved || (releaseRounds t seq0 m (releaseRound t seq0 s).state).2) := by
        simp only [releaseRounds, hprogressed, if_true]
      rw [hstep, hstep, hsame]

theorem releaseRounds_seventyThree (h : seq0 ≤ s.ilu.nextSeq) {n : Nat} (hn : 73 ≤ n) :
    releaseRounds t seq0 n s = releaseRounds t seq0 73 s := by
  induction n, hn using Nat.le_induction with
  | base => rfl
  | succ n hn ih =>
    obtain ⟨m, rfl⟩ : ∃ m, n = m + 1 := ⟨n - 1, by omega⟩
    rw [(releaseRounds_enough h ((leftToJudge_le seq0 s).trans (by omega))).1, ih]

/-! ### What a judgement reads -/

/-- The parts of the state that a judgement reads, but for the queues. -/
structure SameGround (t : Tables) (s s' : State) : Prop where
  sched : s'.csu.sched = s.csu.sched
  cbu : s'.cbu = s.cbu
  psu : s'.psu = s.psu
  rsu : s'.rsu = s.rsu
  ilu : s'.ilu = s.ilu
  room : hasRoom t s' = hasRoom t s

theorem SameGround.internalWinner (h : SameGround t s s') : internalWinner t seq0 s' = internalWinner t seq0 s := by
  obtain ⟨-, hcbu, hpsu, hrsu, hilu, hroom⟩ := h
  have heligible : internalEligible t s' = internalEligible t s := by
    funext o
    simp only [internalEligible, stoppable, reportedRunning, groupQuiet, groupRec, hcbu, hpsu, hrsu, hroom]
  simp only [Machine.internalWinner, internalCandidates, judgedEntries, heligible, hilu, hcbu]

theorem SameGround.judgeHost (h : SameGround t s s') {k : Fin 64} {o : Order}
    (hhead : isHead t s' k o.pump = isHead t s k o.pump) : judgeHost t s' k o = judgeHost t s k o := by
  obtain ⟨hsched, hcbu, hpsu, hrsu, hilu, hroom⟩ := h
  have hload : loadAllows t s' o.pump = loadAllows t s o.pump := by
    have hcommitted : committedLoad t s' = committedLoad t s := by
      funext f
      have hcontribution : contribution t s' = contribution t s := by
        funext p
        rw [contribution, contribution, reportedRunning, reportedRunning, hpsu, hrsu]
      rw [committedLoad, committedLoad, hcontribution]
    rw [loadAllows, loadAllows, hcommitted]
  have hfresh : houseFresh t s' o.pump = houseFresh t s o.pump := by rw [houseFresh, houseFresh, hrsu]
  have hquiet : groupQuiet t s' o.pump = groupQuiet t s o.pump := by
    rw [groupQuiet, groupQuiet, groupRec, groupRec, hpsu]
  have hholds : holdsEntry s' o.pump = holdsEntry s o.pump := by rw [holdsEntry, holdsEntry, hilu]
  have howed : stopOwed s' o.pump = stopOwed s o.pump := by rw [stopOwed, stopOwed, hilu]
  have hsuction : suctionAllows t s' o.pump = suctionAllows t s o.pump := by rw [suctionAllows, suctionAllows, hrsu]
  have hdelivery : deliveryAllows t s' o.pump = deliveryAllows t s o.pump := by
    rw [deliveryAllows, deliveryAllows, hrsu]
  have hstart : judgeStart t s' o = judgeStart t s o := by
    rw [judgeStart, judgeStart, judgeStoppedStart, judgeStoppedStart, hfresh, hquiet, hholds, howed, hload, hsuction,
      hdelivery, hroom, hcbu, hpsu, hrsu]
  have hstop : judgeStop t s' o = judgeStop t s o := by rw [judgeStop, judgeStop, hquiet, hroom, hcbu, hpsu]
  rw [Machine.judgeHost, Machine.judgeHost, hsched, hhead, hcbu, hstart, hstop]

/-- Slot j holds a WAITING order of the pump. -/
def QueuedAt (s : State) (p : Fin 32) (j : Fin 64) : Prop := ∃ o, waitingOrder (s.ob.at j) = some o ∧ o.pump = p

/-- The head of a queue by distance from reclaim (R79). -/
theorem isHead_iff_distance {k : Fin 64} {p : Fin 32} : isHead t s k p = true ↔
    k.val < t.map.ringSize.slots ∧ QueuedAt s p k ∧ ∀ j, j.val < t.map.ringSize.slots →
      distToSlot t.map.ringSize s.rt.reclaim j < distToSlot t.map.ringSize s.rt.reclaim k → ¬ QueuedAt s p j := by
  rw [isHead_iff]
  constructor
  · rintro ⟨d, hd, rfl, hqueued, hfirst⟩
    refine ⟨slotOf_lt _ _, hqueued, fun j hj hlt => ?_⟩
    rw [distToSlot_slotOf _ hd] at hlt
    rw [← slotOf_distToSlot s.rt.reclaim hj]
    exact hfirst _ hlt
  · rintro ⟨hk, hqueued, hfirst⟩
    refine ⟨_, distToSlot_lt _ s.rt.reclaim k, slotOf_distToSlot _ hk, hqueued, fun c hc => ?_⟩
    have hlt := hc.trans (distToSlot_lt t.map.ringSize s.rt.reclaim k)
    exact hfirst _ (slotOf_lt _ _) (by rw [distToSlot_slotOf _ hlt]; exact hc)

/-- One index on, every other slot is one nearer. -/
theorem distToSlot_succ {n : RingSize} {a : Word} {k : Fin 64} (hk : k.val < n.slots) (hne : k ≠ slotOf n a) :
    distToSlot n (a + 1) k + 1 = distToSlot n a k := by
  have hval : k.val ≠ a.toNat % n.slots := fun h => hne (Fin.ext (by rw [slotOf_val, h]))
  have hmod : (a + 1).toNat % n.slots = (a.toNat + 1) % n.slots := by
    rw [← indexAfter_one, indexAfter_toNat, Nat.mod_mod_of_dvd _ n.slots_dvd]
  rw [distToSlot, distToSlot, hmod]
  cases n <;> simp only [RingSize.slots] at hk hval ⊢ <;> omega

theorem not_waiting_of_finished {e : Entry} (h : finished e.state = true) : waitingOrder e = none := by
  cases hstate : e.state <;> simp_all [waitingOrder, finished]

/-- Reclaim moves over finished entries, so no queue's head moves with it. -/
theorem isHead_reclaimAdvance (k : Fin 64) (p : Fin 32) : isHead t (reclaimAdvance t s) k p = isHead t s k p := by
  have hrounds (n : Nat) (s : State) : isHead t (reclaimRounds t n s) k p = isHead t s k p := by
    induction n generalizing s with
    | zero => rfl
    | succ n ih =>
      simp only [reclaimRounds]
      split
      next hfinished =>
        rw [ih]
        have hqueued (j : Fin 64) : QueuedAt (putEntry (slotOf t.map.ringSize s.rt.reclaim) Entry.reset
            (s.setRt { s.rt with reclaim := s.rt.reclaim + 1 })) p j ↔ QueuedAt s p j := by
          simp only [QueuedAt, putEntry_ob, State.setRt_ob, Tab.at_put]
          split
          next hj => simp [hj, not_waiting_of_finished hfinished.2, show waitingOrder Entry.reset = none from rfl]
          next => rfl
        have hpassed {j : Fin 64} (hj : QueuedAt s p j) : j ≠ slotOf t.map.ringSize s.rt.reclaim := by
          rintro rfl
          obtain ⟨o, ho, -⟩ := hj
          rw [not_waiting_of_finished hfinished.2] at ho
          cases ho
        rw [Bool.eq_iff_iff, isHead_iff_distance, isHead_iff_distance]
        simp only [hqueued, putEntry_keeps, State.setRt_rt]
        refine and_congr_right fun hk => and_congr_right fun hqk => forall_congr' fun j => imp_congr_right fun hj => ?_
        rw [imp_not_comm, imp_not_comm (b := QueuedAt s p j)]
        refine imp_congr_right fun hqj => ?_
        have hdk := distToSlot_succ hk (hpassed hqk)
        have hdj := distToSlot_succ hj (hpassed hqj)
        omega
      next => rfl
  exact hrounds 64 s

theorem sameGround_recordJudgements (t : Tables) (s : State) : SameGround t s (recordJudgements t s) :=
  ⟨by simp, by simp, by simp, by simp, by simp, by rw [hasRoom, hasRoom, (recordJudgements_keeps t s).2.2.1]⟩

theorem sameGround_reclaimAdvance (t : Tables) (s : State) : SameGround t s (reclaimAdvance t s) :=
  ⟨by simp, by simp, by simp, by simp, by simp, by rw [hasRoom, hasRoom, reclaimAdvance_rt]⟩

/-- Judgements that refuse nothing move no queue's head. -/
theorem isHead_recordJudgements (h : refusesAny t s = false) (k : Fin 64) (p : Fin 32) :
    isHead t (recordJudgements t s) k p = isHead t s k p := by
  have hwaiting (j : Fin 64) : waitingOrder ((recordJudgements t s).ob.at j) = waitingOrder (s.ob.at j) := by
    rw [recordJudgements_ob]
    simp only [judgedEntry]
    split
    next => rfl
    next o ho =>
      split
      next => rfl
      next => rfl
      next r hr => exact absurd (refusesAny_iff.mpr ⟨j, o, r, ho, hr⟩) (Bool.eq_false_iff.mp h)
  have hrt : (recordJudgements t s).rt = s.rt := by simp
  simp only [isHead, hwaiting, hrt]

/-! ### The state in which a pass ends -/

/-- The judgements of a pass's last round, as the Order Book holds them. -/
def JudgementsStand (t : Tables) (seq0 : Nat) (s : State) : Prop :=
  (∀ k o, waitingOrder (s.ob.at k) = some o → judgeHost t s k o = .hold (s.ob.at k).reason)
    ∧ internalWinner t seq0 s = none

theorem judgementsStand_settled (h : (releaseRound t seq0 s).progressed = false) :
    JudgementsStand t seq0 (releaseRound t seq0 s).state := by
  rcases releaseRound_cases t seq0 s with ⟨e, o, -, -, hp, -⟩ | ⟨-, k, o, -, -, hp, -⟩ | ⟨hnone, hhost, hstate, hp, -⟩
  · rw [h] at hp
    cases hp
  · rw [h] at hp
    cases hp
  · rw [h] at hp
    obtain ⟨hrefuses, hnil⟩ := Bool.or_eq_false_iff.mp hp.symm
    have hstay : withdrawAll t seq0 s = s := withdrawAll_of_nil (by simpa using hnil)
    rw [hstay] at hnone hhost hstate hrefuses
    have hground := sameGround_recordJudgements t s
    rw [hstate]
    refine ⟨fun k o ho => ?_, hground.internalWinner.trans hnone⟩
    rw [recordJudgements_ob] at ho
    have hwaiting := judgedEntry_waiting ho
    rw [hground.judgeHost (isHead_recordJudgements hrefuses k o.pump), recordJudgements_ob]
    cases hfound : judgeHost t s k o with
    | eligible =>
      obtain ⟨-, hhead, -⟩ := judgeHost_eligible_iff.mp hfound
      exact absurd hfound (hostCandidates_eq_nil.mp (hostWinner_eq_none.mp hhost) k o (isHead_iff_distance.mp hhead).1
        hwaiting)
    | hold r => simp [judgedEntry, hwaiting, hfound]
    | refuse r => exact absurd (refusesAny_iff.mpr ⟨k, o, r, hwaiting, hfound⟩) (Bool.eq_false_iff.mp hrefuses)

theorem JudgementsStand.reclaimAdvance (h : JudgementsStand t seq0 s) : JudgementsStand t seq0 (reclaimAdvance t s) := by
  obtain ⟨hheld, hnone⟩ := h
  have hground := sameGround_reclaimAdvance t s
  refine ⟨fun k o ho => ?_, hground.internalWinner.trans hnone⟩
  rcases reclaimAdvance_ob t s k with hsame | ⟨-, hreset⟩
  · rw [hsame] at ho ⊢
    rw [hground.judgeHost (isHead_reclaimAdvance k o.pump), hheld k o ho]
  · rw [hreset] at ho
    cases ho

end

/-- Settles O18: every round that goes on takes an order or an entry from the 72 there are to judge, and the last round's
judgements are those of the state it leaves. -/
theorem passEndsWithin73Rounds : Obligations.PassEndsWithin73Rounds := by
  refine ⟨fun t s n hn => releaseRounds_seventyThree (Nat.le_refl _) hn, fun t s u n hreq ht hexec => ?_⟩
  rw [exec_releasePass hreq ht] at hexec
  obtain rfl := Host.Outcome.next.inj hexec
  obtain ⟨x, hx⟩ : ∃ x, x = s.setRa { requests := n } := ⟨_, rfl⟩
  have hseq : x.ilu.nextSeq = s.ilu.nextSeq := by rw [hx]; rfl
  rw [← hx, ← hseq]
  have hstart : x.ilu.nextSeq ≤ (expireLate x).ilu.nextSeq := (flagsGrown_expireLate x).nextSeq
  obtain ⟨-, y, hy, hend⟩ := releaseRounds_enough (t := t) hstart (leftToJudge_le _ _)
  have hstand : JudgementsStand t x.ilu.nextSeq (releaseRounds t x.ilu.nextSeq 73 (expireLate x)).1 := by
    rw [hend]
    exact judgementsStand_settled hy
  rcases releasePass_eq t x with h | h <;> rw [h]
  · exact hstand
  · exact hstand.reclaimAdvance

/-! ### The pass whole -/

section
variable {t : Tables} {s : State}

/-- What the rounds leave of an entry that is not WAITING, a pass leaves, unless its reclaim advance frees it (R11). -/
theorem releasePass_ob {e : Entry} {k : Fin 64} (h : (releaseRounds t s.ilu.nextSeq 73 (expireLate s)).1.ob.at k = e) :
    (releasePass t s).ob.at k = e ∨ (finished e.state = true ∧ (releasePass t s).ob.at k = Entry.reset) := by
  rcases releasePass_eq t s with hpass | hpass <;> rw [hpass]
  · exact .inl h
  · have := reclaimAdvance_ob t (releaseRounds t s.ilu.nextSeq 73 (expireLate s)).1 k
    rwa [h] at this

theorem passGrown_releasePass (t : Tables) (s : State) : PassGrown s (releasePass t s) := by
  have hrounds := (flagsGrown_expireLate s).passGrown.trans (releaseRounds_rel (t := t) (seq0 := s.ilu.nextSeq) PassGrown.refl
    (fun _ _ _ => PassGrown.trans) (passGrown_releaseRound t s.ilu.nextSeq) 73 (expireLate s))
  rcases releasePass_eq t s with hpass | hpass <;> rw [hpass]
  · exact hrounds
  · exact hrounds.trans (FlagsGrown.of_eq (by simp) (by simp) (by simp)).passGrown

/-- A late order expires with the reason it held (R75). -/
theorem releasePass_late {k : Fin 64} {o : Order} (ho : waitingOrder (s.ob.at k) = some o)
    (hlate : isBelow o.latest s.cbu.now = true) :
    (releasePass t s).ob.at k = { s.ob.at k with state := .expired, mark := false }
      ∨ (releasePass t s).ob.at k = Entry.reset := by
  have hexpired : (expireLate s).ob.at k = { s.ob.at k with state := .expired, mark := false } := by
    rw [expireLate_ob, if_pos (by simp [lateOrder, ho, hlate])]
    rfl
  have hkept : SettledKept (expireLate s) (releaseRounds t s.ilu.nextSeq 73 (expireLate s)).1 :=
    releaseRounds_rel SettledKept.refl (fun _ _ _ => SettledKept.trans) (settledKept_releaseRound t _) 73 _
  have hrounds := (hkept k (by rw [hexpired]; rfl)).trans hexpired
  exact (releasePass_ob hrounds).imp_right And.right

theorem flagSet_reclaimAdvance (f : EventFlag) (s : State) : flagSet (reclaimAdvance t s) f = flagSet s f := by
  rw [flagSet, flagSet, (reclaimAdvance_keeps t s).2.2.2.2.2.2.2.2.1]

theorem releasePass_flagsExpired (h : expiresAny s = true) : flagSet (releasePass t s) .orderExpired = true := by
  have hraised : flagSet (expireLate s) .orderExpired = true := by
    rw [expireLate, h]
    exact flagSet_raiseFlag _ _
  have hrounds := releaseRounds_rel (t := t) (seq0 := s.ilu.nextSeq) PassGrown.refl (fun _ _ _ => PassGrown.trans)
    (passGrown_releaseRound t s.ilu.nextSeq) 73 (expireLate s)
  have hset := hrounds.flagSet hraised
  rcases releasePass_eq t s with hpass | hpass <;> rw [hpass]
  · exact hset
  · rwa [flagSet_reclaimAdvance]

/-- What the first round leaves, a pass keeps: the head of the list it left, its flags, and its settled entries. -/
structure KeptFrom (x u : State) : Prop where
  list : ∃ more, u.rt.list = x.rt.list ++ more
  flags : ∀ f, flagSet x f = true → flagSet u f = true
  store : ∀ e o g, x.ilu.store.at e = .released o g → u.ilu.store.at e = .released o g
  settled : ∀ k, waitingOrder (x.ob.at k) = none →
    u.ob.at k = x.ob.at k ∨ (finished (x.ob.at k).state = true ∧ u.ob.at k = Entry.reset)

theorem keptFrom_firstRound (t : Tables) (s : State) :
    KeptFrom (releaseRound t s.ilu.nextSeq (expireLate s)).state (releasePass t s) := by
  have hlist : ListGrown (releaseRound t s.ilu.nextSeq (expireLate s)).state
      (releaseRounds t s.ilu.nextSeq 73 (expireLate s)).1 :=
    releaseRounds_after (R := ListGrown) (fun _ => .of_rt_eq rfl) (fun _ _ _ => ListGrown.trans) (listGrown_releaseRound t _) (by decide) _
  have hgrown : PassGrown (releaseRound t s.ilu.nextSeq (expireLate s)).state
      (releaseRounds t s.ilu.nextSeq 73 (expireLate s)).1 :=
    releaseRounds_after (R := PassGrown) PassGrown.refl (fun _ _ _ => PassGrown.trans) (passGrown_releaseRound t _) (by decide) _
  have hkept : SettledKept (releaseRound t s.ilu.nextSeq (expireLate s)).state
      (releaseRounds t s.ilu.nextSeq 73 (expireLate s)).1 :=
    releaseRounds_after (R := SettledKept) SettledKept.refl (fun _ _ _ => SettledKept.trans) (settledKept_releaseRound t _) (by decide) _
  have hstore (e : Fin 8) (o : InternalOrder) (g : Epoch) :
      (releaseRound t s.ilu.nextSeq (expireLate s)).state.ilu.store.at e = .released o g →
        (releaseRounds t s.ilu.nextSeq 73 (expireLate s)).1.ilu.store.at e = .released o g :=
    releaseRounds_after (R := fun a b => a.ilu.store.at e = .released o g → b.ilu.store.at e = .released o g)
      (fun _ => id) (fun _ _ _ h h' hx => h' (h hx)) (fun _ => released_releaseRound t _) (by decide) _
  refine ⟨?_, ?_, ?_, fun k hk => ?_⟩
  · rcases releasePass_eq t s with hpass | hpass <;> rw [hpass]
    · exact hlist.list
    · exact (hlist.trans (listGrown_reclaimAdvance t _)).list
  · intro f hf
    rcases releasePass_eq t s with hpass | hpass <;> rw [hpass]
    · exact hgrown.flagSet hf
    · rw [flagSet_reclaimAdvance]
      exact hgrown.flagSet hf
  · intro e o g h
    rcases releasePass_eq t s with hpass | hpass <;> rw [hpass]
    · exact hstore e o g h
    · rw [(reclaimAdvance_keeps t _).2.2.2.2.2.1]
      exact hstore e o g h
  · exact releasePass_ob (hkept k hk)

/-- The entry that wins the first round takes the first position appended (R77, R94). -/
theorem releasePass_internal {e : Fin 8} {o : InternalOrder} (h : internalWinner t s.ilu.nextSeq s = some (e, o)) :
    (∃ more, (releasePass t s).rt.list = s.rt.list ++ { origin := .internal e, grant := s.cbu.now } :: more)
      ∧ (releasePass t s).ilu.store.at e = .released o s.cbu.now := by
  have hground : SameGround t s (expireLate s) :=
    ⟨by simp, by simp, by simp, by simp, by simp, by rw [hasRoom, hasRoom, (expireLate_keeps s).2.2.1]⟩
  have hwin : internalWinner t s.ilu.nextSeq (withdrawAll t s.ilu.nextSeq (expireLate s)) = some (e, o) := by
    rw [internalWinner, internalCandidates_withdrawAll t _ _ (flagsGrown_expireLate s).nextSeq]
    exact hground.internalWinner.trans h
  obtain ⟨hlist, -, hstore, -⟩ := keptFrom_firstRound t s
  rcases releaseRound_cases t s.ilu.nextSeq (expireLate s) with ⟨f, q, hwin', hstate, -⟩ | ⟨hnone, -⟩ | ⟨hnone, -⟩
  · cases hwin.symm.trans hwin'
    rw [hstate] at hlist hstore
    refine ⟨?_, hstore e o s.cbu.now ?_⟩
    · obtain ⟨more, hmore⟩ := hlist
      exact ⟨more, by rw [hmore, releaseInternal_rt]; simp⟩
    · rw [releaseInternal_store, Tab.at_put_same]
      simp
  · cases hwin.symm.trans hnone
  · cases hwin.symm.trans hnone

/-- The first round of a pass with nothing late, nothing to withdraw and no internal winner. -/
theorem firstRound_host (hlate : expiresAny s = false) (hwithdrawals : withdrawals s s.ilu.nextSeq = [])
    (hnone : internalWinner t s.ilu.nextSeq s = none) :
    (∀ k o, hostWinner t s = some (k, o) → (releaseRound t s.ilu.nextSeq (expireLate s)).state =
        releaseHost t k o (recordJudgements t s))
      ∧ (hostWinner t s = none → (releaseRound t s.ilu.nextSeq (expireLate s)).state = recordJudgements t s) := by
  rw [expireLate_of_none hlate]
  have hstay : withdrawAll t s.ilu.nextSeq s = s := withdrawAll_of_nil hwithdrawals
  rcases releaseRound_cases t s.ilu.nextSeq s with ⟨e, o, hwin, -⟩ | ⟨-, j, q, hwin, hstate, -⟩ |
    ⟨-, hwin, hstate, -⟩ <;> rw [hstay] at hwin
  · cases hwin.symm.trans hnone
  · rw [hstay] at hstate
    refine ⟨fun k o h => ?_, fun h => ?_⟩
    · cases hwin.symm.trans h
      exact hstate
    · cases hwin.symm.trans h
  · rw [hstay] at hstate
    refine ⟨fun k o h => ?_, fun _ => hstate⟩
    cases hwin.symm.trans h

/-- The first round's refusals (R91). -/
theorem releasePass_refused (hlate : expiresAny s = false) (hwithdrawals : withdrawals s s.ilu.nextSeq = [])
    {k : Fin 64} {o : Order} {r : Reason} (ho : waitingOrder (s.ob.at k) = some o) (hr : judgeHost t s k o = .refuse r) :
    ((releasePass t s).ob.at k = { s.ob.at k with state := .refused, reason := r, mark := false }
        ∨ (releasePass t s).ob.at k = Entry.reset)
      ∧ flagSet (releasePass t s) .orderRefused = true := by
  have hstay : withdrawAll t s.ilu.nextSeq s = s := withdrawAll_of_nil hwithdrawals
  have hentry : (releaseRound t s.ilu.nextSeq (expireLate s)).state.ob.at k = leaveWaiting .refused r (s.ob.at k) := by
    rw [expireLate_of_none hlate]
    exact refused_releaseRound ho (by rw [hstay]; exact hr)
  have hraised : flagSet (releaseRound t s.ilu.nextSeq (expireLate s)).state .orderRefused = true := by
    have hwritten : flagSet (recordJudgements t s) .orderRefused = true := by
      rw [recordJudgements, refusesAny_iff.mpr ⟨k, o, r, ho, hr⟩]
      exact flagSet_raiseFlag _ _
    rw [expireLate_of_none hlate]
    rcases releaseRound_cases t s.ilu.nextSeq s with ⟨e, q, -, hstate, -⟩ | ⟨-, j, q, -, hstate, -⟩ |
      ⟨-, -, hstate, -⟩ <;> rw [hstate, hstay]
    · exact (flagsGrown_releaseInternal t e q _).passGrown.flagSet hwritten
    · exact (passGrown_releaseHost t j q _).flagSet hwritten
    · exact hwritten
  obtain ⟨-, hflags, -, hsettled⟩ := keptFrom_firstRound t s
  refine ⟨?_, hflags _ hraised⟩
  have hend := hsettled k (by rw [hentry, waitingOrder_leaveWaiting (by decide)])
  rw [hentry] at hend
  exact hend.imp_right And.right

/-- The host order that wins the first round takes the first position appended and is RELEASED (R77, R94). -/
theorem releasePass_host (hlate : expiresAny s = false) (hwithdrawals : withdrawals s s.ilu.nextSeq = [])
    (hnone : internalWinner t s.ilu.nextSeq s = none) {k : Fin 64} {o : Order} (hwin : hostWinner t s = some (k, o)) :
    (∃ more, (releasePass t s).rt.list = s.rt.list ++ { origin := .host k, grant := s.cbu.now } :: more)
      ∧ (releasePass t s).ob.at k = { s.ob.at k with
          state := .released
          reason := .none
          grant := some s.cbu.now
          mark := false } := by
  have hstate := (firstRound_host hlate hwithdrawals hnone).1 k o hwin
  obtain ⟨-, ho, heligible⟩ := mem_hostCandidates.mp (hostWinner_eq_some hwin).1
  have hentry : (releaseRound t s.ilu.nextSeq (expireLate s)).state.ob.at k =
      { leaveWaiting .released .none (s.ob.at k) with grant := some s.cbu.now } := by
    rw [hstate, releaseHost_ob, Tab.at_put_same, recordJudgements_eligible ho heligible]
    simp
  obtain ⟨hlist, -, -, hsettled⟩ := keptFrom_firstRound t s
  have hend := hsettled k (by rw [hentry]; rfl)
  rw [hentry] at hend
  constructor
  · obtain ⟨more, hmore⟩ := hlist
    exact ⟨more, by rw [hmore, hstate, releaseHost_rt]; simp⟩
  · rcases hend with hend | ⟨hfinished, -⟩
    · exact hend
    · cases hfinished

end

/-- Settles O11: the expiry stage, then the first round's winner; what the first round leaves, the later ones keep. -/
theorem releasePassRuns : Obligations.ReleasePassRuns := by
  refine fun s => ⟨fun hnone => ?_, fun n hreq => ⟨fun ht => ?_, fun t ht => ?_⟩⟩
  · have h : takePass s = s := by simp only [takePass, hnone]
    exact congrArg _ h
  · have h : takePass s = s.setRa { requests := n } := by simp only [takePass, hreq, ht]
    exact congrArg _ h
  · obtain ⟨x, hx⟩ : ∃ x, x = s.setRa { requests := n } := ⟨_, rfl⟩
    have hpass := exec_releasePass hreq ht
    rw [← hx] at hpass
    have hgrown := passGrown_releasePass t x
    have hlist := listGrown_releasePass t x
    refine ⟨releasePass t x, hpass, fun k o ho hlate => ?_, fun ⟨k, o, ho, hlate⟩ => ?_, ?_, fun e o hwin => ?_,
      fun hlate hstands hnone => ?_, ?_, ?_, ?_, ?_, ?_, ?_, ?_, ?_, ?_⟩
    · subst hx; exact releasePass_late (s := s.setRa { requests := n }) ho hlate
    · subst hx; exact releasePass_flagsExpired (expiresAny_iff.mpr ⟨k, o, ho, hlate⟩)
    · subst hx; exact hlist.list
    · subst hx; exact releasePass_internal (s := s.setRa { requests := n }) hwin
    · have hnolate : expiresAny x = false := by
        refine Bool.eq_false_iff.mpr fun h => ?_
        obtain ⟨k, o, ho, hbelow⟩ := expiresAny_iff.mp h
        subst hx
        exact Bool.eq_false_iff.mp (hlate k o ho) hbelow
      have hwithdrawals : withdrawals x x.ilu.nextSeq = [] := by
        refine List.eq_nil_iff_forall_not_mem.mpr fun e he => ?_
        obtain ⟨o, ho, -, hfound⟩ := mem_withdrawals.mp he
        subst hx
        exact hstands e o ho (withdrawn_iff.mp hfound)
      refine ⟨fun k o r ho hr => ?_, fun ⟨k, o, hk, ho, heligible⟩ => ?_, fun k o hwin => ?_⟩
      · subst hx; exact releasePass_refused hnolate hwithdrawals ho hr
      · obtain ⟨y, hy⟩ := Option.ne_none_iff_exists'.mp fun h : hostWinner t s = none =>
          hostCandidates_eq_nil.mp (hostWinner_eq_none.mp h) k o hk ho heligible
        exact ⟨y.1, y.2, hy⟩
      · subst hx; exact releasePass_host hnolate hwithdrawals hnone hwin
    · subst hx; exact hgrown.requests
    · subst hx; exact hlist.submit
    · subst hx; exact hlist.take
    · subst hx; exact hgrown.csu_eq
    all_goals subst hx; simp

end Sys2Proof.Machine

/-! PROOFS. Orders through the part: submit writes and their admissions (R5, R34, R35), slot and report words (R26, R100),
cancel requests (R42), and take writes with their notices (R8, R19). -/

namespace Sys2Proof.Machine

open Safety

theorem reclaimAdvance_indexes (t : Tables) (s : State) : (reclaimAdvance t s).rt.submit = s.rt.submit
    ∧ (reclaimAdvance t s).rt.take = s.rt.take ∧ (reclaimAdvance t s).rt.release = s.rt.release
    ∧ (reclaimAdvance t s).rt.list = s.rt.list := by
  refine ⟨?_, ?_, ?_, ?_⟩ <;> rw [reclaimAdvance_rt]

/-! ### Words recorded at their acknowledge -/

section
variable {s : State} {u : UpCycle}

/-- A master's cycle acknowledged and taken off the port, as the statements about snooped writes show it. -/
theorem endMaster_ack (u : UpCycle) (s : State) : endMaster u (.ack none) s = s.setBpu { s.bpu with
    memPort := none
    upstream := none
    ending := if u.abandoned then s.bpu.ending else .ack none } := rfl

/-- With no upstream cycle the arbiter has the loader alone to grant. -/
theorem grant_upstream_none (h : s.bpu.upstream = none) : (grant s).bpu.upstream = none := by
  have hm : masterWaiting s = none := by simp [masterWaiting, h]
  simp only [grant, hm]
  (repeat' split) <;> simp_all [grantLoader]

/-- The bus after an acknowledged snoop whose effect leaves it as it is. -/
theorem acknowledgedBus {x : State} (hx : x.bpu = (endMaster u (.ack none) s).bpu) :
    (grant x).bpu.upstream = none ∧ (grant x).bpu.ending = (if u.abandoned then s.bpu.ending else .ack none)
      ∧ (grant x).bpu.capture = s.bpu.capture := by
  refine ⟨grant_upstream_none (by rw [hx]; rfl), ?_, ?_⟩ <;> rw [grant_bpu, hx] <;> rfl

end

theorem bufferWord_record {w : Fin 7} (hw : w ≠ 0) (v : Word) (b : AssemblyBuffer) : bufferWord w v b =
    { b with words := b.words.put (Fin.ofNat 6 (w.val - 1)) (some v) } := by
  simp [bufferWord, hw]

/-- Settles O24: the row acknowledges the write in flight, and its effect is the one recorded word. -/
theorem snoopedWordsRecorded : Obligations.SnoopedWordsRecorded := by
  intro s u htables ended
  obtain ⟨t, ht⟩ := Option.isSome_iff_exists.mp htables
  refine ⟨fun k w h => ?_, fun h w hflight => ?_⟩
  · calc exec .slotWordWrite s
        = .next (acknowledgeSnoop isSlotWord s) := rfl
      _ = _ := by
        rw [acknowledgeSnoop_of h rfl ht]
        rfl
  · intro r buffer
    calc exec .reportWordWrite s
        = .next (acknowledgeSnoop isReportWord s) := rfl
      _ = .next (grant (reportWord h w u.cycle.data (endMaster u (.ack none) s))) := by
        rw [acknowledgeSnoop_of hflight rfl ht]
        rfl
      _ = _ := by
        by_cases hw : w = 0
        · subst hw
          rfl
        · have hbuffer : buffer =
              { r.buffer with words := r.buffer.words.put (Fin.ofNat 6 (w.val - 1)) (some u.cycle.data) } := if_neg hw
          rw [hbuffer]
          simp only [reportWord, bufferWord_record hw]
          rfl

/-! ### Cancel requests (R42) -/

section
variable {s : State} {t : Tables} {a : Addr} {v : Word} {k : Fin 64}

theorem exec_cancelRequest (h : Accepting s) (ht : s.tables = some t) (ha : RingWord t s a k 7) (hv : v.toNat / 4096 = 12)
    (hstate : (s.ob.at k).state ≠ .free) : exec (.cancelRequest a v) s = .next (cancelSlot t k (acknowledged s)) := by
  have hasks : asksCancel v = true := by simp [asksCancel, hv]
  have hslot : Fin.ofNat 64 ((8 * k.val + 7) / 8) = k :=
    Fin.ext (by simp only [Fin.ofNat]; omega)
  have hdecode : decodeCycle s (hostWrite a v) = .absorb (.cancel k) := by
    rw [decodeCycle_ringWord ht (c := hostWrite a v) ha, decodeRing, hslot]
    simp [hostWrite, decodeSlotWrite, Cycle.full, hstate, show (8 * k.val + 7) % 8 = 7 by omega, hasks]
  calc exec (.cancelRequest a v) s
      = .next (present cancelOutcome (hostWrite a v) s) := rfl
    _ = .next (carryOut (hostWrite a v) (.absorb (.cancel k)) s) := by
      rw [present_accepting h, hdecode]
      rfl
    _ = .next (absorbEffect (.cancel k) v (acknowledged s)) := by
      rw [carryOut, endCycle_accepting h]
      rfl
    _ = _ := by
      have htables : (acknowledged s).tables = some t := ht
      simp only [absorbEffect, htables]

end

/-- Settles O25. -/
theorem cancelRequestTaken : Obligations.CancelRequestTaken := by
  intro s t a v k h ht ha hv
  have hexec (hstate : (s.ob.at k).state ≠ .free) := exec_cancelRequest h ht ha hv hstate
  refine ⟨fun hstate => ?_, fun hstate => ?_, fun hstate => ?_⟩
  · rw [hexec (by rcases hstate with h | h <;> simp [h])]
    have hob : (acknowledged s).ob = s.ob := rfl
    rcases hstate with hstate | hstate <;> simp only [cancelSlot, hob, hstate] <;> rfl
  · rw [hexec (by rcases hstate with h | h | h <;> simp [h])]
    have hob : (acknowledged s).ob = s.ob := rfl
    rcases hstate with hstate | hstate | hstate <;> simp only [cancelSlot, hob, hstate]
  · obtain ⟨y, hy⟩ : ∃ y, y = putEntry k (leaveWaiting .cancelled .hostCancel (s.ob.at k)) (acknowledged s) := ⟨_, rfl⟩
    have hcancelled : cancelSlot t k (acknowledged s) = requestPass (reclaimAdvance t y) := by
      have hob : (acknowledged s).ob = s.ob := rfl
      simp only [cancelSlot, hob, hstate, hy]
    have hyob : y.ob = s.ob.put k (leaveWaiting .cancelled .hostCancel (s.ob.at k)) := by rw [hy]; rfl
    refine ⟨requestPass (reclaimAdvance t y), (hexec (by simp [hstate])).trans (by rw [hcancelled]), ?_, fun j hj => ?_,
      ?_⟩
    · have := reclaimAdvance_ob t y k
      rw [hyob, Tab.at_put_same] at this
      exact this.imp_right And.right
    · have := reclaimAdvance_ob t y j
      rwa [hyob, Tab.at_put_other _ _ hj] at this
    · obtain ⟨hsubmit, htake, hrelease, hlist⟩ := reclaimAdvance_indexes t y
      simp only [requestPass_keeps, reclaimAdvance_keeps, hsubmit, htake, hrelease, hlist]
      subst hy
      simp [requestPass, acknowledged]

/-! ### Submit writes (R5, R34) -/

section
variable {t : Tables} {s : State} {u : UpCycle}

theorem flagsGrown_raiseFlag (f : EventFlag) (s : State) : FlagsGrown s (raiseFlag f s) :=
  flagsGrown_raiseFlagIf true f s

theorem flagsGrown_putEntry (k : Fin 64) (e : Entry) (s : State) : FlagsGrown s (putEntry k e s) := .of_eq rfl rfl rfl

theorem flagsGrown_admitIndex (t : Tables) (i : Word) (s : State) : FlagsGrown s (admitIndex t i s) := by
  simp only [admitIndex]
  split
  · exact (flagsGrown_putEntry _ _ s).trans (flagsGrown_raiseFlag .orderRefused _)
  · exact flagsGrown_putEntry _ _ s

theorem flagsGrown_admitFrom (t : Tables) (n : Nat) (i : Word) (s : State) : FlagsGrown s (admitFrom t n i s) := by
  induction n generalizing i s with
  | zero => exact .refl s
  | succ n ih => exact (flagsGrown_admitIndex t i s).trans (ih _ _)

/-- A submit write that advances, its admissions seen past the ring's indexes and the bus. -/
theorem submitAcknowledged_advance {v : Word} (hv : v ≠ s.rt.submit) : submitAcknowledged t v s =
    requestPass (reclaimAdvance t (relinked { s.rt with submit := v } s.bpu
      (admitFrom t (dist s.rt.submit v) s.rt.submit s))) := by
  have hlinked : s.setRt { s.rt with submit := v } = relinked { s.rt with submit := v } s.bpu s := rfl
  rw [submitAcknowledged, if_neg hv, hlinked, admitFrom_relinked]

end

/-- Settles O20: the admissions one after another, then the reclaim advance and the request. -/
theorem submitAdvanceTaken : Obligations.SubmitAdvanceTaken := by
  intro s u t h ht v
  obtain ⟨b, hb⟩ : ∃ b, b = endMaster u (.ack none) s := ⟨_, rfl⟩
  have hexec : exec .submitAdvance s = .next (grant (submitAcknowledged t v b)) := by
    rw [hb]
    exact congrArg _ (acknowledgeSnoop_of h rfl ht)
  have hbus := acknowledgedBus (u := u) (s := s) (x := submitAcknowledged t v b) (by rw [← hb]; simp)
  obtain ⟨hup, hending, hcapture⟩ := hbus
  have hlinked : b = relinked s.rt b.bpu s := by rw [hb]; rfl
  refine ⟨_, hexec, hup, hending, ?_⟩
  simp only [grant_keeps]
  by_cases hv : v = s.rt.submit
  · have hsame : submitAcknowledged t v b = b := by
      rw [submitAcknowledged, if_pos]
      rw [hv, hb]
      rfl
    have hzero : (v - s.rt.submit).toNat = 0 := by simp [hv]
    rw [hsame, hb, if_pos hv, hzero]
    exact ⟨hv.symm, rfl, rfl, rfl, rfl, fun _ => ⟨rfl, rfl, rfl⟩, rfl, hcapture ▸ (by rw [hsame, hb]), fun _ _ => .inl rfl,
      ⟨fun _ => s, rfl, fun _ hd => absurd hd (Nat.not_lt_zero _), rfl, fun _ => .inl rfl⟩, rfl, rfl, rfl, rfl, rfl, rfl⟩
  · obtain ⟨y, hy⟩ : ∃ y : Nat → State, ∀ d, y d = admitFrom t d s.rt.submit s := ⟨_, fun _ => rfl⟩
    obtain ⟨r, hr⟩ : ∃ r : Rt, r = { s.rt with submit := v } := ⟨_, rfl⟩
    obtain ⟨n, hn⟩ : ∃ n, n = (v - s.rt.submit).toNat := ⟨_, rfl⟩
    have hdist : dist s.rt.submit v = n := hn.symm
    have htaken : submitAcknowledged t v b = requestPass (reclaimAdvance t (relinked r b.bpu (y n))) := by
      have hrt : b.rt = s.rt := by rw [hb]; rfl
      rw [submitAcknowledged_advance (by rw [hrt]; exact hv), hrt, hdist, ← hr]
      conv_lhs => rw [hlinked]
      rw [admitFrom_relinked, ← hy]
      rfl
    rw [htaken, ← hn, if_neg hv]
    have hgrown : FlagsGrown s (y n) := by rw [hy]; exact flagsGrown_admitFrom t n s.rt.submit s
    obtain ⟨hsubmit, htake, hrelease, hlist⟩ := reclaimAdvance_indexes t (relinked r b.bpu (y n))
    have hob (k : Fin 64) : (requestPass (reclaimAdvance t (relinked r b.bpu (y n)))).ob.at k = (y n).ob.at k
        ∨ (finished ((y n).ob.at k).state = true
          ∧ (requestPass (reclaimAdvance t (relinked r b.bpu (y n)))).ob.at k = Entry.reset) :=
      reclaimAdvance_ob t (relinked r b.bpu (y n)) k
    have hcsu : (reclaimAdvance t (relinked r b.bpu (y n))).csu = (y n).csu := by simp [relinked]
    have hkept : (reclaimAdvance t (relinked r b.bpu (y n))).tables = s.tables
        ∧ (reclaimAdvance t (relinked r b.bpu (y n))).psu = s.psu
        ∧ (reclaimAdvance t (relinked r b.bpu (y n))).rsu = s.rsu
        ∧ (reclaimAdvance t (relinked r b.bpu (y n))).ilu = s.ilu
        ∧ (reclaimAdvance t (relinked r b.bpu (y n))).cbu = s.cbu
        ∧ (reclaimAdvance t (relinked r b.bpu (y n))).iml = s.iml := by
      simp [relinked, hy]
    have hra : (reclaimAdvance t (relinked r b.bpu (y n))).ra = s.ra := by simp [relinked, hy]
    have hrequests : (requestPass (reclaimAdvance t (relinked r b.bpu (y n)))).ra.requests = s.ra.requests + 1 := by
      rw [requestPass, hra]
      rfl
    refine ⟨?_, ?_, ?_, ?_, hrequests, fun h => absurd h hv, ?_, ?_, fun k hk => ?_, ⟨y, hy 0, fun d hd => ?_, ?_⟩, hkept⟩
    · exact hsubmit.trans (by rw [hr]; rfl)
    · exact htake.trans (by rw [hr]; rfl)
    · exact hrelease.trans (by rw [hr]; rfl)
    · exact hlist.trans (by rw [hr]; rfl)
    · simp only [requestPass_keeps, hcsu]
      exact hgrown.csu_eq
    · rwa [htaken] at hcapture
    · have houtside : (y n).ob.at k = s.ob.at k := by
        rw [hy]
        rcases admitFrom_ob t n s.rt.submit s k with hsame | ⟨-, d, hd, hslot⟩
        · exact hsame
        · exact absurd hslot (hk d hd)
      have := hob k
      rwa [houtside] at this
    · rw [hy, hy, admitFrom_succ]
      exact admitIndex_admitted t _ _
    · exact ⟨by simp only [requestPass_keeps, hcsu], hob⟩

/-! ### Take writes and their notices (R8, R19) -/

section
variable {t : Tables} {s : State} {u : UpCycle}

theorem flagsGrown_placeStop (p : Fin 32) (c : Cause) (s : State) : FlagsGrown s (placeStop p c s) := by
  have howed : FlagsGrown s (oweStop p c s) := by
    rw [oweStop_eq]
    exact .of_eq rfl rfl rfl
  simp only [placeStop]
  split
  next => exact howed
  next e _ =>
    split
    next => exact howed
    next => exact flagsGrown_raiseEntry e p c s

theorem flagsGrown_evaluatePump (t : Tables) (p : Fin 32) (s : State) : FlagsGrown s (evaluatePump t p s) := by
  simp only [evaluatePump]
  split
  next => exact .refl s
  next =>
    split
    next => exact .refl s
    next c _ => exact flagsGrown_placeStop p c s

theorem flagsGrown_takeInDispatched (t : Tables) (p : Fin 32) (s : State) : FlagsGrown s (takeInDispatched t p s) := by
  simp only [takeInDispatched]
  split
  next c e _ _ => exact (flagsGrown_takeInFlag t e p c s).trans (flagsGrown_requestPass _)
  next => exact .refl s

theorem flagsGrown_dispatchHandedOver (t : Tables) (p : Fin 32) (a : Action) (s : State) :
    FlagsGrown s (dispatchHandedOver t p a s) := by
  have hevaluated (y : State) : FlagsGrown y (if (y.psu.pumps.at p).state = .lockout then evaluatePump t p y else y) := by
    split
    next => exact flagsGrown_evaluatePump t p y
    next => exact .refl y
  cases a
  · exact (flagsGrown_takeInDispatched t p s).trans (hevaluated _)
  · exact hevaluated s

theorem flagsGrown_dispatchPump (t : Tables) (p : Fin 32) (a : Action) (i : Word) (s : State) :
    FlagsGrown s (dispatchPump t p a i s) := by
  have hpump : FlagsGrown s (pumpDispatched t p a s) := by
    cases a <;> exact .of_eq (by simp [pumpDispatched]) (by simp [pumpDispatched]) (putPump_nextSeq _ _ _)
  have hgroup : FlagsGrown (pumpDispatched t p a s) (groupDispatched t p i (pumpDispatched t p a s)) :=
    .of_eq (by simp) (by simp) (by simp)
  exact (hpump.trans hgroup).trans (flagsGrown_dispatchHandedOver t p a _)

theorem flagsGrown_dispatchNotice (t : Tables) (i : Word) (a : Origin) (s : State) :
    FlagsGrown s (dispatchNotice t i a s) := by
  cases a with
  | host k =>
    have hentry : FlagsGrown s (entryDispatched k s) := .of_eq (by simp) (by simp) (by simp)
    simp only [dispatchNotice]
    split
    next => exact hentry.trans (flagsGrown_dispatchPump t _ _ i _)
    next => exact hentry
  | internal e =>
    simp only [dispatchNotice]
    split
    next => exact (flagsGrown_freeStoreEntry t e s).trans (flagsGrown_dispatchPump t _ _ i _)
    next => exact .refl s

/-- What the notices of a take advance leave as it was (R19). -/
structure NoticesKept (s s' : State) : Prop where
  tables : s'.tables = s.tables
  rsu : s'.rsu = s.rsu
  cbu : s'.cbu = s.cbu
  iml : s'.iml = s.iml
  grown : FlagsGrown s s'

theorem noticesKept_noticesTaken (t : Tables) (i : Word) (l : List Released) (s : State) :
    NoticesKept s (noticesTaken t i l s) := by
  induction l generalizing i s with
  | nil => exact ⟨rfl, rfl, rfl, rfl, .refl s⟩
  | cons x l ih =>
    obtain ⟨htables, hrsu, hcbu, himl, hgrown⟩ := ih (i + 1) (dispatchNotice t i x.origin s)
    exact ⟨htables.trans (by simp), hrsu.trans (by simp), hcbu.trans (by simp), himl.trans (by simp),
      (flagsGrown_dispatchNotice t i x.origin s).trans hgrown⟩

theorem dispatchNotice_ob (t : Tables) (i : Word) (a : Origin) (s : State) (k : Fin 64) :
    (dispatchNotice t i a s).ob.at k =
      if a = .host k ∧ (s.ob.at k).state = .released then { s.ob.at k with state := .dispatched, reason := .none }
      else s.ob.at k := by
  cases a with
  | host j =>
    have hob : (dispatchNotice t i (.host j) s).ob = (entryDispatched j s).ob := by
      simp only [dispatchNotice]
      split <;> simp
    rw [hob, entryDispatched_ob]
    by_cases hjk : k = j
    · subst hjk
      simp
    · have hne : (Origin.host j) ≠ .host k := fun h => hjk (Origin.host.inj h).symm
      simp [hjk, hne]
  | internal e =>
    rw [if_neg (by simp)]
    simp only [dispatchNotice]
    split <;> simp

/-- Slot k is RELEASED and among these positions. -/
def TakenFrom (s : State) (l : List Released) (k : Fin 64) : Prop :=
  (s.ob.at k).state = .released ∧ ∃ gr, ({ origin := .host k, grant := gr } : Released) ∈ l

/-- A RELEASED host entry among the positions taken becomes DISPATCHED, every other stands (R39). -/
theorem noticesTaken_ob (t : Tables) (i : Word) (l : List Released) (s : State) (k : Fin 64) :
    (TakenFrom s l k → (noticesTaken t i l s).ob.at k = { s.ob.at k with state := .dispatched, reason := .none })
      ∧ (¬ TakenFrom s l k → (noticesTaken t i l s).ob.at k = s.ob.at k) := by
  induction l generalizing i s with
  | nil => exact ⟨fun ⟨_, _, hmem⟩ => absurd hmem List.not_mem_nil, fun _ => rfl⟩
  | cons x l ih =>
    obtain ⟨htaken, hstands⟩ := ih (i + 1) (dispatchNotice t i x.origin s)
    have hentry := dispatchNotice_ob t i x.origin s k
    by_cases hx : x.origin = .host k ∧ (s.ob.at k).state = .released
    · rw [if_pos hx] at hentry
      have hnot : ¬ TakenFrom (dispatchNotice t i x.origin s) l k := fun h => by
        have hstate := h.1
        rw [hentry] at hstate
        cases hstate
      have hgone := (hstands hnot).trans hentry
      exact ⟨fun _ => hgone, fun h => absurd ⟨hx.2, x.grant, by rw [← hx.1]; exact List.mem_cons_self⟩ h⟩
    · rw [if_neg hx] at hentry
      have hiff : TakenFrom (dispatchNotice t i x.origin s) l k ↔ TakenFrom s (x :: l) k := by
        rw [TakenFrom, TakenFrom, hentry]
        refine and_congr_right fun hstate => exists_congr fun gr => ?_
        rw [List.mem_cons, or_iff_right]
        rintro rfl
        exact hx ⟨rfl, hstate⟩
      rw [hiff, hentry] at htaken
      rw [hiff, hentry] at hstands
      exact ⟨htaken, hstands⟩

/-- A take write that advances: its notices seen past the Ring Tracker and the bus. -/
theorem takeAcknowledged_advance {v : Word} (hv : v ≠ s.rt.take) : ∃ r, r = { s.rt with
      take := v
      list := s.rt.list.drop (dist s.rt.take v) }
    ∧ takeAcknowledged t v s = requestPass (reclaimAdvance t (relinked r s.bpu
        (noticesTaken t s.rt.take (s.rt.list.take (dist s.rt.take v)) s))) := by
  refine ⟨_, rfl, ?_⟩
  have hlinked : s.setRt { s.rt with take := v } = relinked { s.rt with take := v } s.bpu s := rfl
  rw [takeAcknowledged, if_neg hv, takePositions_eq, hlinked, noticesTaken_relinked]
  rfl

/-- A take write acknowledged: the whole of a take that advances. -/
theorem exec_takeAdvance (h : SnoopInFlight s u .takeWord) (ht : s.tables = some t) :
    exec .takeAdvance s = .next (grant (takeAcknowledged t u.cycle.data (endMaster u (.ack none) s))) :=
  congrArg _ (acknowledgeSnoop_of h rfl ht)

/-- What a take write that advances leaves of each block (R8, R19). -/
theorem takeAdvanced (h : SnoopInFlight s u .takeWord) (ht : s.tables = some t) (hv : u.cycle.data ≠ s.rt.take) :
    ∃ x, exec .takeAdvance s = .next x
      ∧ (x.bpu.upstream = none ∧ x.bpu.ending = if u.abandoned then s.bpu.ending else .ack none)
      ∧ (x.rt.take = u.cycle.data ∧ x.rt.release = s.rt.release ∧ x.rt.submit = s.rt.submit
        ∧ x.rt.list = s.rt.list.drop (dist s.rt.take u.cycle.data))
      ∧ ∃ z, z = noticesTaken t s.rt.take (s.rt.list.take (dist s.rt.take u.cycle.data)) s
        ∧ (x.psu = z.psu ∧ x.ilu = z.ilu ∧ x.csu = z.csu ∧ x.ra.requests = z.ra.requests + 1)
        ∧ (∀ k, x.ob.at k = z.ob.at k ∨ (finished (z.ob.at k).state = true ∧ x.ob.at k = Entry.reset))
        ∧ x.tables = s.tables ∧ x.rsu = s.rsu ∧ x.cbu = s.cbu ∧ x.iml = s.iml := by
  obtain ⟨b, hb⟩ : ∃ b, b = endMaster u (.ack none) s := ⟨_, rfl⟩
  have hlinked : b = relinked s.rt b.bpu s := by rw [hb]; rfl
  have hrt : b.rt = s.rt := by rw [hb]; rfl
  obtain ⟨z, hz⟩ : ∃ z, z = noticesTaken t s.rt.take (s.rt.list.take (dist s.rt.take u.cycle.data)) s := ⟨_, rfl⟩
  obtain ⟨r, hr, htaken⟩ := takeAcknowledged_advance (t := t) (s := b) (v := u.cycle.data) (by rw [hrt]; exact hv)
  have hnotices : relinked r b.bpu (noticesTaken t b.rt.take (b.rt.list.take (dist b.rt.take u.cycle.data)) b) =
      relinked r b.bpu z := by
    rw [hrt]
    conv_lhs => rw [hlinked, noticesTaken_relinked, ← hz]
    rfl
  rw [hnotices] at htaken
  rw [hrt] at hr
  have hbus := acknowledgedBus (u := u) (s := s) (x := takeAcknowledged t u.cycle.data b) (by rw [← hb]; simp)
  obtain ⟨hup, hending, -⟩ := hbus
  have hkept : NoticesKept s z := hz ▸ noticesKept_noticesTaken t s.rt.take _ s
  obtain ⟨hsubmit, htake, hrelease, hlist⟩ := reclaimAdvance_indexes t (relinked r b.bpu z)
  have hreclaim := reclaimAdvance_keeps t (relinked r b.bpu z)
  refine ⟨grant (takeAcknowledged t u.cycle.data b), (exec_takeAdvance h ht).trans (by rw [hb]), ⟨hup, hending⟩, ?_, z, hz,
    ?_, fun k => ?_, ?_⟩
  · simp only [grant_keeps, htaken, requestPass_keeps, hsubmit, htake, hrelease, hlist]
    rw [hr]
    exact ⟨rfl, rfl, rfl, rfl⟩
  · simp only [grant_keeps, htaken, requestPass_keeps, hreclaim]
    refine ⟨rfl, rfl, rfl, ?_⟩
    rw [requestPass, hreclaim.2.2.1]
    rfl
  · simp only [grant_keeps, htaken, requestPass_keeps]
    exact reclaimAdvance_ob t (relinked r b.bpu z) k
  · simp only [grant_keeps, htaken, requestPass_keeps, hreclaim]
    exact ⟨hkept.tables, hkept.rsu, hkept.cbu, hkept.iml⟩

end

/-- Settles O27: y d is what the notices of the first d positions leave. -/
theorem takenPositionsDispatchedInOrder : Obligations.TakenPositionsDispatchedInOrder := by
  intro s u t h ht hv n taken
  obtain ⟨x, hexec, -, ⟨htake, hrelease, hsubmit, hlist⟩, z, hz, ⟨hpsu, hilu, hcsu, hra⟩, hob, hkept⟩ := takeAdvanced h ht hv
  refine ⟨x, fun d => noticesTaken t s.rt.take (taken.take d) s, hexec, rfl, fun d a ha => ?_, ?_, htake, hlist, hsubmit,
    hrelease, hkept⟩
  · obtain ⟨hd, rfl⟩ := List.getElem?_eq_some_iff.mp ha
    show NoticeHandled t _ _ (noticesTaken t s.rt.take (taken.take d) s) (noticesTaken t s.rt.take (taken.take (d + 1)) s)
    rw [List.take_add_one, List.getElem?_eq_getElem hd, Option.toList_some, noticesTaken_concat,
      List.length_take_of_le hd.le]
    exact dispatchNotice_handled t _ _ _
  · have hwhole : noticesTaken t s.rt.take (taken.take taken.length) s = z := by
      rw [List.take_length]
      exact hz.symm
    intro z'
    obtain rfl : z' = z := hwhole
    exact ⟨hpsu, hilu, hcsu, hra, hob⟩

/-- Settles O26. -/
theorem takeAdvanceTaken : Obligations.TakeAdvanceTaken := by
  intro s u t h ht v
  by_cases hv : v = s.rt.take
  · obtain ⟨b, hb⟩ : ∃ b, b = endMaster u (.ack none) s := ⟨_, rfl⟩
    have hsame : takeAcknowledged t v b = b := by
      rw [takeAcknowledged, if_pos]
      rw [hv, hb]
      rfl
    have hexec : exec .takeAdvance s = .next (grant b) := by
      have hexec := exec_takeAdvance h ht
      rw [← hb] at hexec
      rw [hexec, show takeAcknowledged t u.cycle.data b = b from hsame]
    obtain ⟨hup, hending, -⟩ := acknowledgedBus (u := u) (s := s) (x := b) (by rw [hb])
    have hzero : (v - s.rt.take).toNat = 0 := by simp [hv]
    refine ⟨grant b, hexec, hup, hending, ?_⟩
    simp only [grant_keeps]
    rw [hzero, hb]
    refine ⟨hv.symm, rfl, rfl, rfl, fun k => ⟨?_, fun _ => .inl rfl⟩, rfl, fun h => absurd hv h,
      fun _ => ⟨rfl, rfl, rfl, rfl, rfl, rfl⟩, rfl, rfl, rfl, rfl⟩
    rintro ⟨-, gr, hmem⟩
    cases hmem
  · obtain ⟨x, hexec, ⟨hup, hending⟩, ⟨htake, hrelease, hsubmit, hlist⟩, z, hz, ⟨-, -, hcsu, hra⟩, hob, hkept⟩ :=
      takeAdvanced h ht hv
    have hgrown : FlagsGrown s z := hz ▸ (noticesKept_noticesTaken t _ _ s).grown
    refine ⟨x, hexec, hup, hending, htake, hrelease, hsubmit, hlist, fun k => ?_, ?_, fun _ => ?_, fun h => absurd h hv,
      hkept⟩
    · obtain ⟨htaken, hstands⟩ := noticesTaken_ob t s.rt.take (s.rt.list.take (dist s.rt.take v)) s k
      have hend := hob k
      rw [hz] at hend
      refine ⟨fun hdispatched => ?_, fun hnot => ?_⟩
      · rw [htaken hdispatched] at hend
        exact hend.imp_right And.right
      · rwa [hstands hnot] at hend
    · rw [hcsu]
      exact hgrown.csu_eq
    · rw [hra]
      exact Nat.succ_le_succ hgrown.requests

end Sys2Proof.Machine

/-! PROOFS. The admission checks in their order (R35), each read off the words of the order. -/

namespace Sys2Proof.Machine

open Safety

/-! ### The words of an order -/

theorem formOf_eq_none {w : Word} (h : ¬ (w / 4096 = 1 ∨ w / 4096 = 2)) : formOf w = none := by
  have hshort : (w / 4096).toNat ≠ 1 := fun h1 => h (.inl (BitVec.eq_of_toNat_eq h1))
  have hlong : (w / 4096).toNat ≠ 2 := fun h2 => h (.inr (BitVec.eq_of_toNat_eq h2))
  rw [formOf, formField, field_nibble3]
  split <;> simp_all

theorem actionOf_start {w : Word} (h : w / 256 % 16 = 1) : actionOf w = some .start := by
  rw [actionOf, field_nibble2, h]
  rfl

theorem actionOf_stop {w : Word} (h : w / 256 % 16 = 2) : actionOf w = some .stop := by
  rw [actionOf, field_nibble2, h]
  rfl

theorem actionOf_eq_none {w : Word} (h : ¬ (w / 256 % 16 = 1 ∨ w / 256 % 16 = 2)) : actionOf w = none := by
  have hstart : (w / 256 % 16).toNat ≠ 1 := fun h1 => h (.inl (BitVec.eq_of_toNat_eq h1))
  have hstop : (w / 256 % 16).toNat ≠ 2 := fun h2 => h (.inr (BitVec.eq_of_toNat_eq h2))
  rw [actionOf, field_nibble2]
  split <;> simp_all

/-- The words that admission requires (R23). -/
theorem requiredWords_eq (e : Entry) : requiredWords e =
    if e.words.at 0 ≠ none ∧ recorded e 0 / 4096 = 2 then [0, 1, 2, 3, 4, 5] else [0, 1, 2, 3] := by
  cases h : e.words.at 0 with
  | none => simp [requiredWords, h]
  | some w =>
    have hform : formField w = 2 ↔ w / 4096 = 2 := by
      rw [formField, field_nibble3]
      exact ⟨fun h2 => BitVec.eq_of_toNat_eq h2, fun h2 => by rw [h2]; rfl⟩
    simp [requiredWords, recorded, h, hform]

theorem wordsComplete_iff {e : Entry} : wordsComplete e = true ↔ ∀ w, w ∈ requiredWords e → e.words.at w ≠ none := by
  simp [wordsComplete, Option.isSome_iff_ne_none]

/-- The times of a long form whose two fields are valid (R32). -/
theorem longTimes_of_valid {now : Epoch} {w1 w2 w3 : Word} (h : ¬ (timeField w2 = none ∨ timeField w3 = none)) :
    let base := (now / 86400 + (w1 % 2).toNat) * 86400
    let opens := (timeField w2).getD 0
    let closes := (timeField w3).getD 0
    longTimes now w1 w2 w3 = some ((base + opens) % 4294944000,
      (base + (if closes < opens then 86400 + closes else closes)) % 4294944000) := by
  intro base opens closes
  obtain ⟨⟨a, ha⟩, b, hb⟩ := (not_or.mp h).imp Option.ne_none_iff_exists'.mp Option.ne_none_iff_exists'.mp
  have hopens : opens = a := by simp [opens, ha]
  have hcloses : closes = b := by simp [closes, hb]
  have hbase : (dayCount now + dayFlagField w1) * 86400 = base := by
    simp [base, dayCount, dayFlagField, field, BitVec.toNat_umod]
  have horder : (if a ≤ b then b else 86400 + b) = if b < a then 86400 + b else b := by
    split <;> split <;> omega
  simp only [longTimes, ha, hb, hbase, hopens, hcloses, horder]
  rfl

/-! ### Admission check by check -/

section
variable {t : Tables} {s : State} {e : Entry} {form : Form} {action : Action}

/-- With the checks up to BAD_TIME passed, the last three decide. -/
theorem admission_answer (h : ReachesTimes t s e form action) {earliest latest : Epoch}
    (htimes : orderTimes t s.cbu.now form e = some (earliest, latest)) : admission t s e =
      if action = .start ∧ 1440 < runMinutes form e then .error .badField
      else if isBelow latest s.cbu.now then .error .tooLate
      else if 2 ≤ waitingCount s (Fin.ofNat 32 (pumpField (recorded e 0))) then .error .queueFull
      else .ok { form, action, pump := Fin.ofNat 32 (pumpField (recorded e 0)),
                 priority := priorityField (recorded e 1), earliest, latest,
                 run := runSeconds action (runMinutes form e), tag := tagOf form e } := by
  obtain ⟨hclock, hcomplete, hform, haction, hpump⟩ := h
  simp only [admission, hclock, hcomplete, hform, haction, Nat.not_le.mpr hpump, htimes, Bool.not_true,
    Bool.false_eq_true, if_false]

/-- The same with each field of the answer read off the words by its form and action. -/
theorem admission_fields (h : ReachesTimes t s e form action) {earliest latest : Epoch}
    (htimes : orderTimes t s.cbu.now form e = some (earliest, latest)) {minutes tag : Word} {run : Nat}
    (hminutes : runMinutes form e = minutes.toNat) (hrun : runSeconds action (runMinutes form e) = run)
    (htag : tagOf form e = tag) :
    let who : Fin 32 := Fin.ofNat 32 (recorded e 0 % 256).toNat
    let c7 := action = .stop ∨ minutes.toNat ≤ 1440
    (action = .start ∧ 1440 < minutes.toNat → admission t s e = .error .badField)
      ∧ (c7 ∧ epochOffset latest s.cbu.now < 0 → admission t s e = .error .tooLate)
      ∧ (c7 ∧ 0 ≤ epochOffset latest s.cbu.now ∧ 2 ≤ waitingCount s who → admission t s e = .error .queueFull)
      ∧ (c7 ∧ 0 ≤ epochOffset latest s.cbu.now ∧ waitingCount s who < 2 → admission t s e =
        .ok { form, action, pump := who, priority := (recorded e 1 / 256 % 8).toNat, earliest, latest, run, tag }) := by
  intro who c7
  have hanswer := admission_answer h htimes
  rw [hminutes, pumpField, field_byte0, priorityField, field_priority] at hanswer
  rw [hminutes] at hrun
  have hfield (hc : c7) : ¬ (action = .start ∧ 1440 < minutes.toNat) := by
    rintro ⟨rfl, hlt⟩
    rcases hc with h | h
    · cases h
    · omega
  have hbelow : isBelow latest s.cbu.now = true ↔ epochOffset latest s.cbu.now < 0 := by simp [isBelow]
  refine ⟨fun hbad => ?_, fun ⟨hc, hlate⟩ => ?_, fun ⟨hc, hin, hfull⟩ => ?_, fun ⟨hc, hin, hroom⟩ => ?_⟩
  · rw [hanswer, if_pos hbad]
  · rw [hanswer, if_neg (hfield hc), if_pos (hbelow.mpr hlate)]
  · rw [hanswer, if_neg (hfield hc), if_neg (fun h => absurd (hbelow.mp h) (Int.not_lt.mpr hin)), if_pos hfull]
  · rw [hanswer, if_neg (hfield hc), if_neg (fun h => absurd (hbelow.mp h) (Int.not_lt.mpr hin)),
      if_neg (Nat.not_le.mpr hroom), hrun, htag]

end

/-- Settles O21: the checks up to BAD_PUMP read word 0, BAD_TIME the long form's two fields, and the last three the
order's times, minutes and queue. -/
theorem admissionChecksInOrder : Obligations.AdmissionChecksInOrder := by
  intro t s e form action pump who needed marked minutes short badTime today opens closes earliest latest c1 c2 c3 c4 c5 c6 c7
  have hmarked : wordsComplete e = true ↔ marked := by
    rw [wordsComplete_iff, requiredWords_eq]
  have hpump : pumpField (recorded e 0) = pump := by rw [pumpField, field_byte0]
  have hform (h : c3) : formOf (recorded e 0) = some (if short then .short else .long) := by
    rcases h.2 with h | h
    · rw [formOf_short h, if_pos h]
    · rw [formOf_long h, if_neg fun h1 : form = 1 => by rw [h] at h1; revert h1; decide]
  have haction (h : c4) : actionOf (recorded e 0) = some (if action = 1 then .start else .stop) := by
    rcases h.2 with h | h
    · rw [actionOf_start h, if_pos h]
    · rw [actionOf_stop h, if_neg fun h1 : action = 1 => by rw [h] at h1; revert h1; decide]
  have hreach (h : c5) : ReachesTimes t s e (if short then .short else .long) (if action = 1 then .start else .stop) :=
    ⟨h.1.1.1.1, hmarked.mpr h.1.1.1.2, hform h.1.1, haction h.1, hpump ▸ h.2⟩
  have htimes (h : c6) : orderTimes t s.cbu.now (if short then .short else .long) e = some (earliest, latest) := by
    by_cases hshort : short
    · simp only [earliest, latest, if_pos hshort, orderTimes, shortTimes, offsetField, field_byte0]
      rfl
    · simp only [earliest, latest, if_neg hshort, orderTimes]
      exact longTimes_of_valid (h.2.resolve_left hshort)
  have hminutes : runMinutes (if short then .short else .long) e = minutes.toNat := by
    by_cases hshort : short
    · rw [if_pos hshort, show minutes = recorded e 2 from if_pos hshort]
      rfl
    · rw [if_neg hshort, show minutes = recorded e 4 from if_neg hshort]
      rfl
  have hrun : runSeconds (if action = 1 then .start else .stop) (runMinutes (if short then .short else .long) e) =
      if action = 1 then minutes.toNat * 60 else 0 := by
    rw [hminutes]
    split <;> rfl
  have htag : tagOf (if short then .short else .long) e = if short then recorded e 3 else recorded e 5 := by
    split <;> rfl
  have hstart : (if action = 1 then Action.start else .stop) = .start ↔ action = 1 := by
    split <;> simp_all
  have hstop (h : c7) : (if action = 1 then Action.start else .stop) = .stop ∨ minutes.toNat ≤ 1440 := by
    refine h.2.imp_left fun h2 => ?_
    rw [if_neg fun h1 : action = 1 => by rw [h1] at h2; revert h2; decide]
  have hlast (h : c6) := admission_fields (hreach h.1) (htimes h) hminutes hrun htag
  refine ⟨fun h => ?_, fun ⟨h, hbad⟩ => ?_, fun ⟨h, hbad⟩ => ?_, fun ⟨h, hbad⟩ => ?_, fun ⟨h, hbad⟩ => ?_,
    fun ⟨h, hlong, hbad⟩ => ?_, fun ⟨h, hbad⟩ => ?_, fun ⟨h, hbad⟩ => ?_, fun ⟨h, hbad⟩ => ?_, fun ⟨h, hgood⟩ => ?_⟩
  · simp [admission, h]
  · have hclock : s.cbu.clockSet = true := h
    have hincomplete : wordsComplete e = false := Bool.eq_false_iff.mpr (mt hmarked.mp hbad)
    simp [admission, hclock, hincomplete]
  · simp [admission, show s.cbu.clockSet = true from h.1, hmarked.mpr h.2, formOf_eq_none hbad]
  · simp [admission, show s.cbu.clockSet = true from h.1.1, hmarked.mpr h.1.2, hform h, actionOf_eq_none hbad]
  · simp [admission, show s.cbu.clockSet = true from h.1.1.1, hmarked.mpr h.1.1.2, hform h.1, haction h, hpump, hbad]
  · refine admission_badTime (hreach h) ?_
    rw [if_neg hlong]
    exact longTimes_eq_none.mpr hbad
  · exact (hlast h).1 ⟨hstart.mpr hbad.1, hbad.2⟩
  · exact (hlast h.1).2.1 ⟨hstop h, hbad⟩
  · exact (hlast h.1).2.2.1 ⟨hstop h, hbad⟩
  · exact (hlast h.1).2.2.2 ⟨hstop h, hgood⟩

end Sys2Proof.Machine

/-! PROOFS. Report commits (chapter 5) and evaluations (R117, R118): what a commit makes of a pump record, how the offers of
a commit follow one another, and the statements about the sequence word. -/

namespace Sys2Proof.Machine

open Safety

/-! ### Evaluations (R117, R118) -/

section
variable {t : Tables} {s : State} {p : Fin 32}

theorem lowSuction_iff : lowSuction t s p = true ↔
    ((s.psu.pumps.at p).state = .startSent ∨ (s.psu.pumps.at p).state = .starting ∨ (s.psu.pumps.at p).state = .running)
      ∧ (t.reservoirs.at (t.houses.at (t.pumps.at p).house).suction).fixed = false
      ∧ ∃ l, s.rsu.levels.at (t.houses.at (t.pumps.at p).house).suction = some l
          ∧ l < (t.reservoirs.at (t.houses.at (t.pumps.at p).house).suction).trip := by
  simp only [lowSuction, houseOfPump, Bool.and_eq_true, Bool.or_eq_true, beq_iff_eq, Bool.not_eq_true', Option.any_eq_true,
    and_assoc, or_assoc]
  exact and_congr_right fun _ => and_congr_right fun _ => exists_congr fun _ => and_congr_right fun _ => decide_eq_true_iff

theorem highDelivery_iff : highDelivery t s p = true ↔
    (s.psu.pumps.at p).state = .running
      ∧ (t.reservoirs.at (t.houses.at (t.pumps.at p).house).delivery).fixed = false
      ∧ ∃ l, s.rsu.levels.at (t.houses.at (t.pumps.at p).house).delivery = some l
          ∧ (t.reservoirs.at (t.houses.at (t.pumps.at p).house).delivery).high ≤ l := by
  simp only [highDelivery, houseOfPump, Bool.and_eq_true, beq_iff_eq, Bool.not_eq_true', Option.any_eq_true, and_assoc]
  exact and_congr_right fun _ => and_congr_right fun _ => exists_congr fun _ => and_congr_right fun _ => decide_eq_true_iff

theorem faultRunning_iff : faultRunning s p = true ↔ s.rsu.faultBits.at p = true ∧ s.rsu.runningBits.at p = true := by
  simp [faultRunning]

theorem tripCause_ne_timed : tripCause t s p ≠ some .timed := by
  simp only [tripCause]
  (repeat' split) <;> simp

theorem stopOutstanding_iff : stopOutstanding s p = true ↔
    holdsEntry s p = true ∨ (s.psu.pumps.at p).state = .stopSent ∨ (s.psu.pumps.at p).state = .stopping := by
  simp [stopOutstanding, or_assoc]

theorem evaluatePump_cause {c : Cause} (hout : ¬ stopOutstanding s p = true) (hc : tripCause t s p = some c) :
    evaluatePump t p s = placeStop p c s := by
  simp only [evaluatePump, hc, if_neg hout]

end

/-- Settles O31. -/
theorem evaluationPlacesTheStop : Obligations.EvaluationPlacesTheStop := by
  intro t p s st out house low high faulted
  have hlow : lowSuction t s p = true ↔ low := lowSuction_iff
  have hhigh : highDelivery t s p = true ↔ high := highDelivery_iff
  have hfault : faultRunning s p = true ↔ faulted := faultRunning_iff
  have hout : stopOutstanding s p = true ↔ out := stopOutstanding_iff
  refine ⟨fun h => ?_, fun h h' => ?_, fun h h' h'' => ?_, fun h h' h'' => ?_, fun h => ?_, fun c h hc hplace => ?_,
    fun c e h hc hstate he hfirst => ?_⟩
  · rw [tripCause, if_pos (hlow.mpr h)]
  · rw [tripCause, if_neg (mt hlow.mp h), if_pos (hhigh.mpr h')]
  · rw [tripCause, if_neg (mt hlow.mp h), if_neg (mt hhigh.mp h'), if_pos (hfault.mpr h'')]
  · rw [tripCause, if_neg (mt hlow.mp h), if_neg (mt hhigh.mp h'), if_neg (mt hfault.mp h'')]
  · rcases h with h | h
    · rw [evaluatePump, if_pos (hout.mpr h)]
    · simp only [evaluatePump, h, ite_self]
  · rw [evaluatePump_cause (mt hout.mp h) hc, ← oweStop_eq]
    rcases hplace with hstate | hfull
    · have hst : (s.psu.pumps.at p).state = .startSent := hstate
      cases hf : freeEntry s <;> simp only [placeStop, hf, hst, if_true]
    · simp only [placeStop, freeEntry_eq_none.mpr hfull]
  · have hst : (s.psu.pumps.at p).state ≠ .startSent := hstate
    have htrip : c ≠ .timed := fun h => tripCause_ne_timed (h ▸ hc)
    rw [evaluatePump_cause (mt hout.mp h) hc]
    simp only [placeStop, freeEntry_first he hfirst, if_neg hst, raiseEntry_raised, stopRaised, if_neg htrip]

/-! ### A commit reaches a pump (R53 to R57) -/

/-- The states that a commit can lead to (R53 to R57). -/
theorem pumpCommitted_state (st : PumpStatic) (now : Epoch) (running fault : Bool) (r : PumpRec) :
    (pumpCommitted st now running fault r).state = r.state ∨ (pumpCommitted st now running fault r).state = .lockout
      ∨ (pumpCommitted st now running fault r).state = .running
      ∨ (pumpCommitted st now running fault r).state = .stopped := by
  cases hstate : r.state <;> cases fault <;> cases running <;> simp [pumpCommitted, hstate, faultLocked]

theorem unexpected_iff {running fault : Bool} {r : PumpRec} : unexpected running fault r = true ↔
    fault = false ∧ ((r.state = .running ∧ running = false) ∨ (r.state = .stopped ∧ running = true)) := by
  simp [unexpected]

/-- A record written by the PSU in a state that a commit leads to. -/
theorem putPump_eq {p : Fin 32} {r : PumpRec} {s : State} (h : r.state = (s.psu.pumps.at p).state ∨ r.state = .lockout
    ∨ r.state = .running ∨ r.state = .stopped) : putPump p r s =
      (s.setPsu { s.psu with pumps := s.psu.pumps.put p r }).setIlu { s.ilu with
        owed := if r.state = .stopped ∧ (s.psu.pumps.at p).state ≠ .stopped then s.ilu.owed.put p none else s.ilu.owed } := by
  have hclears : (r.state ≠ (s.psu.pumps.at p).state ∧ stoppingState r.state = true)
      ↔ (r.state = .stopped ∧ (s.psu.pumps.at p).state ≠ .stopped) := by
    rcases h with h | h | h | h
    · rw [← h]
      exact ⟨fun ⟨hne, _⟩ => absurd rfl hne, fun ⟨heq, hne⟩ => absurd heq hne⟩
    · simp [h, stoppingState]
    · simp [h, stoppingState]
    · simp [h, stoppingState, eq_comm]
  simp only [putPump]
  split
  next hc =>
    rw [if_pos (hclears.mp hc)]
    rfl
  next hc =>
    rw [if_neg (mt hclears.mpr hc)]
    rfl

/-- Settles O30: state by state, and the record written once. -/
theorem commitReachesPump : Obligations.CommitReachesPump := by
  refine ⟨?_, ?_⟩
  · intro st now running r after
    refine ⟨fun h => ?_, fun fault h => ?_, fun h => ?_, fun h => ?_, fun h => ?_, fun h => ?_, fun h => ?_, fun h => ?_⟩
    · cases hstate : r.state <;> simp_all [pumpCommitted, faultLocked]
    · cases fault <;> simp [pumpCommitted, h]
    · rcases h with h | h <;> simp [pumpCommitted, h]
    · simp [pumpCommitted, h]
    · cases running <;> simp only [pumpCommitted, h, runEndOf] <;> rfl
    · cases running <;> simp only [pumpCommitted, h] <;> rfl
    · cases running <;> simp only [pumpCommitted, h] <;> rfl
    · cases running <;> simp only [pumpCommitted, h] <;> rfl
  · intro t p s r running fault r'
    have hwritten : putPump p r' s = _ := putPump_eq (pumpCommitted_state (t.pumps.at p) s.cbu.now running fault r)
    have hcommit : commitPump t p s = raiseFlagIf (unexpected running fault r) .unexpectedState (putPump p r' s) := rfl
    rw [hcommit, hwritten]
    cases hu : unexpected running fault r with
    | true => rw [if_pos (unexpected_iff.mp hu)]; rfl
    | false => rw [if_neg (mt unexpected_iff.mpr (Bool.eq_false_iff.mp hu))]; rfl

/-! ### The sequence word (R101 to R111) -/

section
variable {t : Tables} {s : State} {u : UpCycle} {h : Fin 12}

theorem bufferComplete_iff {b : AssemblyBuffer} :
    bufferComplete b = true ↔ b.clockSeen = true ∧ ∀ w, b.words.at w ≠ none := by
  simp [bufferComplete, Option.isSome_iff_ne_none]

theorem exec_sequenceWordWrite (hflight : SnoopInFlight s u (.sequenceWord h)) (ht : s.tables = some t) :
    exec .sequenceWordWrite s = .next (grant (sequenceAcknowledged t h u.cycle.data (endMaster u (.ack none) s))) :=
  congrArg _ (acknowledgeSnoop_of hflight rfl ht)

end

theorem satSucc_eq (n : Word) : satSucc n = if n = 65535 then n else n + 1 := by
  simp [satSucc]

/-- Settles O28. -/
theorem sequenceWordNotCommitted : Obligations.SequenceWordNotCommitted := by
  intro s u h hflight htables r complete ended emptied up
  obtain ⟨t, ht⟩ := Option.isSome_iff_exists.mp htables
  have hcomplete : bufferComplete r.buffer = true ↔ complete := bufferComplete_iff
  have hexec := exec_sequenceWordWrite hflight ht
  have hrecord : (endMaster u (.ack none) s).rsu.houses.at h = r := rfl
  refine ⟨fun hnot => ?_, fun hc hlast => ?_⟩
  · have hbuffer : bufferComplete r.buffer = false := Bool.eq_false_iff.mpr (mt hcomplete.mp hnot)
    rw [hexec]
    simp only [sequenceAcknowledged, hrecord, hbuffer, Bool.not_false, if_true, satSucc_eq]
    rfl
  · have hbuffer : bufferComplete r.buffer = true := hcomplete.mpr hc
    rw [hexec]
    simp only [sequenceAcknowledged, hrecord, hbuffer, hlast, Bool.not_true, Bool.false_eq_true, if_false, if_true,
      satSucc_eq]
    rfl

/-! ### The offers of a commit (R110, R119) -/

section
variable {t : Tables} {h : Fin 12}

/-- The same part with another bus and other house records: no offer reads either. -/
def rehoused (b : Bpu) (hs : Tab 12 HouseRec) (s : State) : State :=
  (s.setBpu b).setRsu { s.rsu with houses := hs }

theorem placeStop_rehoused (p : Fin 32) (c : Cause) (b : Bpu) (hs : Tab 12 HouseRec) (s : State) :
    placeStop p c (rehoused b hs s) = rehoused b hs (placeStop p c s) := by
  have hraise (e : Fin 8) : raiseEntry e p c (rehoused b hs s) = rehoused b hs (raiseEntry e p c s) := by
    cases c <;> rfl
  have howe : oweStop p c (rehoused b hs s) = rehoused b hs (oweStop p c s) := by
    rw [oweStop_eq, oweStop_eq]
    rfl
  simp only [placeStop, show freeEntry (rehoused b hs s) = freeEntry s from rfl, howe, hraise,
    show (rehoused b hs s).psu = s.psu from rfl]
  split
  next => rfl
  next => split <;> rfl

theorem evaluatePump_rehoused (p : Fin 32) (b : Bpu) (hs : Tab 12 HouseRec) (s : State) :
    evaluatePump t p (rehoused b hs s) = rehoused b hs (evaluatePump t p s) := by
  simp only [evaluatePump, show stopOutstanding (rehoused b hs s) p = stopOutstanding s p from rfl,
    show tripCause t (rehoused b hs s) p = tripCause t s p from rfl, placeStop_rehoused]
  split
  next => rfl
  next => split <;> rfl

theorem commitPump_rehoused (p : Fin 32) (b : Bpu) (hs : Tab 12 HouseRec) (s : State) :
    commitPump t p (rehoused b hs s) = rehoused b hs (commitPump t p s) := by
  have hput (r : PumpRec) : putPump p r (rehoused b hs s) = rehoused b hs (putPump p r s) := by
    simp only [putPump, apply_ite (rehoused b hs)]
    rfl
  have hraise (y : Bool) (x : State) :
      raiseFlagIf y .unexpectedState (rehoused b hs x) = rehoused b hs (raiseFlagIf y .unexpectedState x) := by
    cases y <;> rfl
  simp only [commitPump, hput, hraise]
  rfl

theorem offerCommit_rehoused (p : Fin 32) (b : Bpu) (hs : Tab 12 HouseRec) (s : State) :
    offerCommit t h (rehoused b hs s) p = rehoused b hs (offerCommit t h s p) := by
  simp only [offerCommit]
  split
  next => rw [commitPump_rehoused, evaluatePump_rehoused]
  next => rw [evaluatePump_rehoused]

theorem offers_rehoused (l : List (Fin 32)) (b : Bpu) (hs : Tab 12 HouseRec) (s : State) :
    l.foldl (offerCommit t h) (rehoused b hs s) = rehoused b hs (l.foldl (offerCommit t h) s) := by
  induction l generalizing s with
  | nil => rfl
  | cons p l ih => rw [List.foldl_cons, offerCommit_rehoused, ih, List.foldl_cons]

/-- The record of pump p when a commit of its own house reaches it (R52). -/
def committedAt (t : Tables) (s : State) (p : Fin 32) : PumpRec :=
  pumpCommitted (t.pumps.at p) s.cbu.now (s.rsu.runningBits.at p) (s.rsu.faultBits.at p) (s.psu.pumps.at p)

theorem commitPump_psu (t : Tables) (p : Fin 32) (s : State) :
    (commitPump t p s).psu = { s.psu with pumps := s.psu.pumps.put p (committedAt t s p) } := by
  simp [commitPump, committedAt]

theorem offerCommit_psu (t : Tables) (h : Fin 12) (s : State) (p : Fin 32) : (offerCommit t h s p).psu =
    if (t.pumps.at p).house = h then { s.psu with pumps := s.psu.pumps.put p (committedAt t s p) } else s.psu := by
  simp only [offerCommit, evaluatePump_keeps]
  split
  next => exact commitPump_psu t p s
  next => rfl

theorem offers_groups (l : List (Fin 32)) (s : State) : (l.foldl (offerCommit t h) s).psu.groups = s.psu.groups := by
  induction l generalizing s with
  | nil => rfl
  | cons p l ih =>
    rw [List.foldl_cons, ih, offerCommit_psu]
    split <;> rfl

theorem offerCommit_pumps (t : Tables) (h : Fin 12) (s : State) (p q : Fin 32) : (offerCommit t h s p).psu.pumps.at q =
    if q = p ∧ (t.pumps.at p).house = h then committedAt t s p else s.psu.pumps.at q := by
  rw [offerCommit_psu]
  by_cases hh : (t.pumps.at p).house = h
  · simp [hh, Tab.at_put]
  · simp [hh]

/-- Each pump of the house among the offers is handled once (R52, R119). -/
theorem offers_pumps {l : List (Fin 32)} (hl : l.Nodup) (s : State) (p : Fin 32) :
    (l.foldl (offerCommit t h) s).psu.pumps.at p =
      if p ∈ l ∧ (t.pumps.at p).house = h then committedAt t s p else s.psu.pumps.at p := by
  induction l generalizing s with
  | nil => simp
  | cons q l ih =>
    obtain ⟨hq, hl⟩ := List.nodup_cons.mp hl
    rw [List.foldl_cons, ih hl]
    have hother (hne : p ≠ q) : committedAt t (offerCommit t h s q) p = committedAt t s p := by
      simp only [committedAt, offerCommit_keeps, offerCommit_pumps, hne, false_and, if_false]
    by_cases hpq : p = q
    · subst hpq
      rw [if_neg fun hmem => hq hmem.1, offerCommit_pumps]
      simp
    · rw [hother hpq, offerCommit_pumps]
      simp [hpq]

theorem flagsGrown_commitPump (t : Tables) (p : Fin 32) (s : State) : FlagsGrown s (commitPump t p s) := by
  have hput (r : PumpRec) : FlagsGrown s (putPump p r s) := .of_eq (by simp) (by simp) (putPump_nextSeq p r s)
  exact (hput _).trans (flagsGrown_raiseFlagIf _ _ _)

theorem flagsGrown_offers (l : List (Fin 32)) (s : State) : FlagsGrown s (l.foldl (offerCommit t h) s) := by
  induction l generalizing s with
  | nil => exact .refl s
  | cons p l ih =>
    have hoffer : FlagsGrown s (offerCommit t h s p) := by
      simp only [offerCommit]
      split
      next => exact (flagsGrown_commitPump t p s).trans (flagsGrown_evaluatePump t p _)
      next => exact flagsGrown_evaluatePump t p s
    exact hoffer.trans (ih _)

/-! ### UNEXPECTED_STATE -/

theorem evaluatePump_unexpected (p : Fin 32) (s : State) :
    flagSet (evaluatePump t p s) .unexpectedState = flagSet s .unexpectedState := by
  have hraise (e : Fin 8) (c : Cause) : flagSet (raiseEntry e p c s) .unexpectedState = flagSet s .unexpectedState := by
    cases c <;> simp [raiseEntry, raiseFlagIf, raiseFlag, flagSet, flagMask, flagPosition]
  have howe (c : Cause) : flagSet (oweStop p c s) .unexpectedState = flagSet s .unexpectedState := by
    rw [oweStop_eq]
    rfl
  simp only [evaluatePump]
  split
  next => rfl
  next =>
    split
    next => rfl
    next c _ =>
      simp only [placeStop]
      split
      next => exact howe c
      next e _ =>
        split
        next => exact howe c
        next => exact hraise e c

/-- The PSU finds pump p in a state that the report contradicts (R56, R57). -/
def UnexpectedAt (s : State) (p : Fin 32) : Prop :=
  unexpected (s.rsu.runningBits.at p) (s.rsu.faultBits.at p) (s.psu.pumps.at p) = true

theorem offerCommit_unexpected (s : State) (p : Fin 32) : flagSet (offerCommit t h s p) .unexpectedState = true ↔
    flagSet s .unexpectedState = true ∨ ((t.pumps.at p).house = h ∧ UnexpectedAt s p) := by
  rw [offerCommit, evaluatePump_unexpected]
  split
  next hh =>
    have hput (r : PumpRec) : flagSet (putPump p r s) .unexpectedState = flagSet s .unexpectedState := by
      rw [flagSet, flagSet, show (putPump p r s).csu = s.csu by simp]
    simp only [commitPump, UnexpectedAt, hh, true_and]
    cases hu : unexpected (s.rsu.runningBits.at p) (s.rsu.faultBits.at p) (s.psu.pumps.at p) with
    | true => simp
    | false => simp [hput]
  next hh => simp [hh]

theorem offers_unexpected {l : List (Fin 32)} (hl : l.Nodup) (s : State) :
    flagSet (l.foldl (offerCommit t h) s) .unexpectedState = true ↔
      flagSet s .unexpectedState = true ∨ ∃ p ∈ l, (t.pumps.at p).house = h ∧ UnexpectedAt s p := by
  induction l generalizing s with
  | nil => simp
  | cons q l ih =>
    obtain ⟨hq, hl⟩ := List.nodup_cons.mp hl
    have hother (p : Fin 32) (hp : p ∈ l) : UnexpectedAt (offerCommit t h s q) p ↔ UnexpectedAt s p := by
      have hne : p ≠ q := fun e => hq (e ▸ hp)
      simp only [UnexpectedAt, offerCommit_keeps, offerCommit_pumps, hne, false_and, if_false]
    rw [List.foldl_cons, ih hl, offerCommit_unexpected, or_assoc, List.exists_mem_cons_iff]
    refine or_congr_right (or_congr_right (exists_congr fun p => and_congr_right fun hp => ?_))
    rw [hother p hp]

end

/-! ### A commit whole (R103 to R111) -/

section
variable {t : Tables} {s : State} {u : UpCycle} {h : Fin 12}

theorem put_put_same {n : Nat} {α : Type} (l : Tab n α) (i : Fin n) (a b : α) : (l.put i a).put i b = l.put i b :=
  Tab.ext_at fun j => by
    simp only [Tab.at_put]
    split <;> rfl

theorem sequenceAcknowledged_commit {q : Word} (hcomplete : bufferComplete (s.rsu.houses.at h).buffer = true)
    (hnew : (s.rsu.houses.at h).lastSequence ≠ some q) :
    sequenceAcknowledged t h q s = clearBuffer h (setSequence h q (commitReport t h s)) := by
  simp only [sequenceAcknowledged, hcomplete, hnew, Bool.not_true, Bool.false_eq_true, if_false]

/-- The plant image with the report applied and the house FRESH (R104 to R108). -/
def reportedRsu (t : Tables) (h : Fin 12) (s : State) : Rsu := (freshen t h (applyReport t h s)).rsu

/-- The house record at the end of a commit (R101, R107, R108). -/
def committedHouse (t : Tables) (h : Fin 12) (q : Word) (s : State) : HouseRec :=
  { freshness := .fresh (startTimer s.cbu.now (t.houses.at h).staleTime)
    localControl := bitOf (bufferValue (s.rsu.houses.at h).buffer 6) 0
    lastSequence := some q
    buffer := AssemblyBuffer.clear }

/-- A commit is the report applied, its offers made, and one pass requested; the house's own record is written last. -/
theorem committed_eq (q : Word) (b : Bpu) : clearBuffer h (setSequence h q (commitReport t h (s.setBpu b))) =
    requestPass (rehoused b (s.rsu.houses.put h (committedHouse t h q s))
      ((Tab.numbers 32 (offered t h)).foldl (offerCommit t h) (s.setRsu (reportedRsu t h s)))) := by
  obtain ⟨w, hw⟩ : ∃ w, w = (Tab.numbers 32 (offered t h)).foldl (offerCommit t h) (s.setRsu (reportedRsu t h s)) :=
    ⟨_, rfl⟩
  have hstart : freshen t h (applyReport t h (s.setBpu b)) =
      rehoused b (reportedRsu t h s).houses (s.setRsu (reportedRsu t h s)) := rfl
  have hoffers : commitReport t h (s.setBpu b) = requestPass (rehoused b (reportedRsu t h s).houses w) := by
    rw [commitReport, hstart, offers_rehoused, ← hw]
  have hwritten : ((reportedRsu t h s).houses.put h { (reportedRsu t h s).houses.at h with lastSequence := some q }).put h
      { ((reportedRsu t h s).houses.put h { (reportedRsu t h s).houses.at h with lastSequence := some q }).at h with
        buffer := AssemblyBuffer.clear } = s.rsu.houses.put h (committedHouse t h q s) := by
    simp only [reportedRsu, freshen, putHouse, applyReport, State.setRsu_rsu, put_put_same, Tab.at_put_same]
    rfl
  have hrsu : w.rsu = reportedRsu t h s := by rw [hw]; simp
  rw [hoffers, ← hw, ← hwritten]
  rfl

theorem offered_iff {p : Fin 32} : offered t h p = true ↔ configured t p = true ∧ ((t.pumps.at p).house = h
    ∨ (t.houses.at (t.pumps.at p).house).suction = (t.houses.at h).suction
    ∨ (t.houses.at (t.pumps.at p).house).suction = (t.houses.at h).delivery
    ∨ (t.houses.at (t.pumps.at p).house).delivery = (t.houses.at h).suction
    ∨ (t.houses.at (t.pumps.at p).house).delivery = (t.houses.at h).delivery) := by
  simp only [offered, houseOfPump, Bool.and_eq_true, Bool.or_eq_true, beq_iff_eq, or_assoc]

theorem nodup_offers : (Tab.numbers 32 (offered t h)).Nodup := (List.nodup_finRange 32).filter _

theorem mem_offers {p : Fin 32} : p ∈ Tab.numbers 32 (offered t h) ↔ offered t h p = true := by
  simp [Tab.numbers]

end

/-- Settles O29: the commit seen as its report, its offers and the house's record, the offers each handled once. -/
theorem sequenceWordCommits : Obligations.SequenceWordCommits := by
  intro s u h t hflight ht r word level own offers offer hclock hwords hnew
  obtain ⟨b, hb⟩ : ∃ b, b = (endMaster u (.ack none) s).bpu := ⟨_, rfl⟩
  obtain ⟨reported, hreported⟩ : ∃ y, y = s.setRsu (reportedRsu t h s) := ⟨_, rfl⟩
  obtain ⟨w, hw⟩ : ∃ w, w = (Tab.numbers 32 (offered t h)).foldl (offerCommit t h) reported := ⟨_, rfl⟩
  obtain ⟨houses, hhouses⟩ : ∃ l, l = s.rsu.houses.put h (committedHouse t h u.cycle.data s) := ⟨_, rfl⟩
  obtain ⟨y, hy⟩ : ∃ y, y = requestPass (rehoused b houses w) := ⟨_, rfl⟩
  have hexec : exec .sequenceWordWrite s = .next (grant y) := by
    have hcomplete : bufferComplete r.buffer = true := bufferComplete_iff.mpr ⟨hclock, hwords⟩
    have hbus : endMaster u (.ack none) s = s.setBpu b := by rw [hb]; rfl
    rw [exec_sequenceWordWrite hflight ht, sequenceAcknowledged_commit (s := endMaster u (.ack none) s) hcomplete hnew,
      hbus, committed_eq, hy, hw, hreported, hhouses]
  obtain ⟨hup, -, hcapture⟩ := acknowledgedBus (u := u) (s := s) (x := y) (by rw [hy, ← hb]; rfl)
  have hrsu : w.rsu = reportedRsu t h s := by rw [hw, hreported]; simp
  have hoffers : offers = Tab.numbers 32 (offered t h) := by
    refine List.filter_congr fun p _ => ?_
    rw [Bool.eq_iff_iff, decide_eq_true_iff, offered_iff]
  have hsame : offers.foldl offer (s.setRsu (grant y).rsu) = rehoused s.bpu houses w := by
    have hstart : s.setRsu (grant y).rsu = rehoused s.bpu houses reported := by
      rw [show (grant y).rsu = y.rsu by simp, hy, hreported]
      show s.setRsu { w.rsu with houses } = _
      rw [hrsu]
      rfl
    rw [hoffers, hstart, hw, ← offers_rehoused]
    rfl
  have hown (p : Fin 32) : (p ∈ Tab.numbers 32 (offered t h) ∧ (t.pumps.at p).house = h) ↔ own p := by
    rw [mem_offers, offered_iff]
    exact ⟨fun ⟨hp, hh⟩ => ⟨hp.1, hh⟩, fun ⟨hp, hh⟩ => ⟨⟨hp, .inl hh⟩, hh⟩⟩
  have hpumps (p : Fin 32) : (own p → w.psu.pumps.at p = committedAt t reported p)
      ∧ (¬ own p → w.psu.pumps.at p = reported.psu.pumps.at p) := by
    rw [hw, offers_pumps nodup_offers]
    exact ⟨fun hp => if_pos ((hown p).mpr hp), fun hp => if_neg (mt (hown p).mp hp)⟩
  have hgrown : FlagsGrown reported w := hw ▸ flagsGrown_offers _ reported
  have hmine (p : Fin 32) : (configured t p && (t.pumps.at p).house == h) = true ↔ own p := by
    rw [Bool.and_eq_true, beq_iff_eq]
  have hbits (p : Fin 32) :
      (own p → w.rsu.runningBits.at p = (word 3).getLsbD (t.pumps.at p).position.val
        ∧ w.rsu.faultBits.at p = (word 4).getLsbD (t.pumps.at p).position.val)
      ∧ (¬ own p → w.rsu.runningBits.at p = s.rsu.runningBits.at p ∧ w.rsu.faultBits.at p = s.rsu.faultBits.at p) := by
    rw [hrsu]
    simp only [reportedRsu, freshen, putHouse, applyReport, State.setRsu_rsu, Tab.at_ofFn]
    refine ⟨fun hp => ?_, fun hp => ?_⟩
    · rw [if_pos ((hmine p).mpr hp), if_pos ((hmine p).mpr hp)]
      exact ⟨rfl, rfl⟩
    · rw [if_neg (mt (hmine p).mp hp), if_neg (mt (hmine p).mp hp)]
      exact ⟨rfl, rfl⟩
  have hunexpected : flagSet w .unexpectedState = true ↔ flagSet reported .unexpectedState = true
      ∨ ∃ p, own p ∧ UnexpectedAt reported p := by
    rw [hw, offers_unexpected nodup_offers]
    refine or_congr_right (exists_congr fun p => ?_)
    rw [← hown p, and_assoc]
  have hkept := foldl_offerCommit_keeps t h (Tab.numbers 32 (offered t h)) reported
  rw [← hw] at hkept
  obtain ⟨-, htables, hrt, hob, hra, -, hcbu, himl, -⟩ := hkept
  have hgroups : w.psu.groups = s.psu.groups := by rw [hw, offers_groups, hreported]; rfl
  refine ⟨grant y, hexec, ?_⟩
  rw [hsame]
  have hflags : flagSet (grant y) .unexpectedState = flagSet w .unexpectedState := by
    rw [flagSet, flagSet, show (grant y).csu = y.csu by simp, hy]
    rfl
  rw [hflags]
  simp only [grant_keeps]
  have hyrsu : y.rsu = { reportedRsu t h s with houses } := by rw [hy, ← hrsu]; rfl
  have hyrunning : y.rsu.runningBits = w.rsu.runningBits := by rw [hy]; rfl
  have hyfault : y.rsu.faultBits = w.rsu.faultBits := by rw [hy]; rfl
  have hypsu : y.psu = w.psu := by rw [hy]; rfl
  have hycsu : y.csu = w.csu := by rw [hy]; rfl
  rw [hyrunning, hyfault, hypsu, hycsu]
  refine ⟨?_, ?_, fun p hp => ?_, fun p hp => ?_, ?_, rfl, ?_, ?_, ?_, ?_, hgroups, ?_, hup, hcapture, ?_, ?_, ?_, ?_, ?_⟩
  · rw [hyrsu, hhouses]
    rfl
  · rw [hyrsu]
    rfl
  · obtain ⟨hrunning, hfault⟩ := (hbits p).1 hp
    refine ⟨hrunning, hfault, ?_⟩
    rw [(hpumps p).1 hp, hrsu, hreported]
    rfl
  · obtain ⟨hrunning, hfault⟩ := (hbits p).2 hp
    refine ⟨hrunning, hfault, ?_⟩
    rw [(hpumps p).2 hp, hreported]
    rfl
  · rw [hy]
    rfl
  · rw [hunexpected, hrsu, hreported]
    exact or_congr_right (exists_congr fun p => and_congr_right fun _ => unexpected_iff)
  · rw [hyrsu]
    rfl
  · rw [hyrsu]
    rfl
  · have hrequests : y.ra.requests = w.ra.requests + 1 := by rw [hy]; rfl
    rw [hrequests, hra, hreported]
    rfl
  · have hcsu := hgrown.csu_eq
    rw [hreported] at hcsu
    exact hcsu
  · rw [hy]; exact htables.trans (by rw [hreported]; rfl)
  · rw [hy]; exact hrt.trans (by rw [hreported]; rfl)
  · rw [hy]; exact hob.trans (by rw [hreported]; rfl)
  · rw [hy]; exact hcbu.trans (by rw [hreported]; rfl)
  · rw [hy]; exact himl.trans (by rw [hreported]; rfl)

end Sys2Proof.Machine

/-! PROOFS. The bus (chapter 8): the window that decodes each address, what each initiator finds there (R150 to R156), and
how a presented, acknowledged, timed out or abandoned cycle ends. -/

namespace Sys2Proof.Machine

open Safety

/-! ### The window that decodes an address -/

section
variable {t : Tables} {s : State} {c : Cycle}

theorem full_iff : c.full = true ↔ c.lanes = 3 := by simp [Cycle.full]

theorem slot_of_offset (k : Fin 64) {w : Nat} (hw : w < 8) :
    Fin.ofNat 64 ((8 * k.val + w) / 8) = k ∧ (8 * k.val + w) % 8 = w :=
  ⟨Fin.ext (by simp only [Fin.ofNat]; omega), by omega⟩

theorem decodeCycle_takeWord (ht : s.tables = some t) (ha : TakeWord t s c.addr) :
    decodeCycle s c = decodeTake s c := by
  obtain ⟨haddr, houtside, hsubmit, hring⟩ := ha
  rw [decodeCycle_mapped ht houtside, decodeMapped, offsetIn_outside hring]
  simp only
  rw [if_neg hsubmit, if_pos haddr]

theorem decodeCycle_reportWord {h : Fin 12} {w : Nat} (ht : s.tables = some t) (ha : ReportAreaWord t s c.addr h w) :
    decodeCycle s c = decodeReport c (8 * h.val + w) := by
  obtain ⟨haddr, hh, hw, houtside, hring, hsubmit, htake⟩ := ha
  have hoff : offsetIn t.map.reportBase.toNat (8 * t.map.houseCount.val) c.addr = some (8 * h.val + w) :=
    offsetIn_inside (by omega) (by omega)
  rw [decodeCycle_mapped ht houtside, decodeMapped, offsetIn_outside hring]
  simp only [hoff]
  rw [if_neg hsubmit, if_neg htake]

theorem decodeCycle_unmapped (ht : s.tables = some t) (houtside : OutsideStation s c.addr) (ha : Unmapped t c.addr) :
    decodeCycle s c = .memory .pass := by
  obtain ⟨hring, hsubmit, htake, hreport⟩ := ha
  rw [decodeCycle_mapped ht houtside, decodeMapped, offsetIn_outside hring]
  simp only [offsetIn_outside hreport]
  rw [if_neg hsubmit, if_neg htake]

theorem decodeCycle_noTables (ht : s.tables = none) (ha : OutsideStation s c.addr) : decodeCycle s c = .memory .pass := by
  unfold OutsideStation at ha
  have himage : offsetIn (regionBase s) 3584 c.addr = none := offsetIn_outside (by omega)
  have hstatus : offsetIn (regionBase s + statusOffset) 64 c.addr = none :=
    offsetIn_outside (by simp only [statusOffset]; omega)
  simp only [decodeCycle, himage, hstatus, ht]

theorem decodeCycle_imageWord (ha : ImageAreaWord s c.addr) : decodeCycle s c = decodeImage s c := by
  obtain ⟨hlow, hhigh⟩ := ha
  have himage : offsetIn (regionBase s) 3584 c.addr = some (c.addr.toNat - regionBase s) :=
    offsetIn_inside (by omega) (by omega)
  simp only [decodeCycle, himage]

theorem decodeCycle_statusWord {w : Nat} (ha : StatusBlockWord s c.addr w) : decodeCycle s c = decodeStatus s c w := by
  obtain ⟨haddr, hw⟩ := ha
  have himage : offsetIn (regionBase s) 3584 c.addr = none := offsetIn_above (by omega)
  have hstatus : offsetIn (regionBase s + statusOffset) 64 c.addr = some w :=
    offsetIn_inside (by simp only [statusOffset]; omega) hw
  simp only [decodeCycle, himage, hstatus]

/-! ### A ring word, by initiator (R1, R18, R26 to R28) -/

section
variable {k : Fin 64} {w : Nat}

theorem decodeRing_other (hi : c.init = .other) (off : Nat) :
    decodeRing t s c off = .refuse .protectViolation .initiator := by
  simp only [decodeRing, hi, refuseProtect]

theorem decodeRing_notHost (hwrite : c.write = true) (hi : c.init = .link ∨ c.init = .panel) (off : Nat) :
    decodeRing t s c off = .refuse .protectViolation .access := by
  rcases hi with hi | hi <;> simp only [decodeRing, hi, hwrite, refuseProtect, if_true]

theorem decodeRing_hostWrite (hw : w < 8) (hwrite : c.write = true) (hi : c.init = .host) :
    decodeRing t s c (8 * k.val + w) = decodeSlotWrite s c k w := by
  obtain ⟨hslot, hword⟩ := slot_of_offset k hw
  simp only [decodeRing, hi, hwrite, hslot, hword, if_true]

theorem decodeRing_read (hw : w < 8) (hread : c.write = false) (hi : c.init = .host ∨ c.init = .panel) :
    decodeRing t s c (8 * k.val + w) = decodeSlotRead s k w := by
  obtain ⟨hslot, hword⟩ := slot_of_offset k hw
  rcases hi with hi | hi <;> simp only [decodeRing, hi, hread, hslot, hword, Bool.false_eq_true, if_false]

theorem decodeRing_linkRead (hw : w < 8) (hread : c.write = false) (hi : c.init = .link) :
    decodeRing t s c (8 * k.val + w) = decodeLinkRead t s k w := by
  obtain ⟨hslot, hword⟩ := slot_of_offset k hw
  simp only [decodeRing, hi, hread, hslot, hword, Bool.false_eq_true, if_false]

theorem decodeSlotWrite_width (hfull : ¬ c.lanes = 3) : decodeSlotWrite s c k w = .refuse .protectViolation .width := by
  have h : c.full = false := Bool.eq_false_iff.mpr (mt full_iff.mp hfull)
  simp [decodeSlotWrite, h, refuseProtect]

theorem decodeSlotWrite_free (hfull : c.lanes = 3) (hstate : (s.ob.at k).state = .free) : decodeSlotWrite s c k w =
    if w < 6 then .memory (.snoop (.slotWord k (Fin.ofNat 6 w))) else .memory .pass := by
  simp only [decodeSlotWrite, full_iff.mpr hfull, hstate, Bool.not_true, Bool.false_eq_true, if_false, if_true]

theorem decodeSlotWrite_submitted (hfull : c.lanes = 3) (hstate : (s.ob.at k).state ≠ .free) (hw : w < 7) :
    decodeSlotWrite s c k w = .refuse .protectViolation .submitted := by
  simp only [decodeSlotWrite, full_iff.mpr hfull, hstate, hw, refuseProtect, Bool.not_true, Bool.false_eq_true, if_false,
    if_true]

theorem decodeSlotWrite_badRequest (hfull : c.lanes = 3) (hstate : (s.ob.at k).state ≠ .free)
    (hdata : c.data.toNat / 4096 ≠ 12) : decodeSlotWrite s c k 7 = .refuse .protectViolation .badRequest := by
  have hasks : asksCancel c.data = false := by simp [asksCancel, hdata]
  simp [decodeSlotWrite, full_iff.mpr hfull, hstate, hasks, refuseProtect]

end

end

/-! ### REFUSED_CYCLE -/

/-- Settles O37: window by window, the first check of the decode that refuses. -/
theorem refusedCycleEnds : Obligations.RefusedCycleEnds := by
  intro c s h write full protect index
  have hprotect (cause : FaultCause) (hd : decodeCycle s c = .refuse .protectViolation cause) : protect cause :=
    exec_refusedCycle h rfl hd
  have hindex (cause : FaultCause) (hd : decodeCycle s c = .refuse .indexFault cause) : index cause :=
    exec_refusedCycle h rfl hd
  have hwidth (hfull : ¬ full) : c.full = false := Bool.eq_false_iff.mpr (mt full_iff.mp hfull)
  have hfullw (hfull : full) : c.full = true := full_iff.mpr hfull
  refine ⟨hprotect, hindex, fun t ht ha => ?_, fun t k w ht ha => ?_, fun t k w ht ha => ?_, fun ha => ?_, fun w ha => ?_⟩
  · have hd := decodeCycle_takeWord ht ha
    refine ⟨fun hi => hindex _ (hd.trans ?_), fun hw hi => hindex _ (hd.trans ?_), fun hw hi hfull => hindex _ (hd.trans ?_),
      fun hw hi hfull hadvance => hindex _ (hd.trans ?_)⟩
    · simp only [decodeTake, hi, refuseIndex]
    · rcases hi with hi | hi <;> simp only [decodeTake, hi, show c.write = true from hw, refuseIndex, if_true]
    · simp [decodeTake, hi, show c.write = true from hw, hwidth hfull, refuseIndex]
    · have hlegal : legalTake s c.data = false := decide_eq_false (Nat.not_le.mpr hadvance)
      simp [decodeTake, hi, show c.write = true from hw, hfullw hfull, hlegal, refuseIndex]
  · have hd := decodeCycle_ringWord ht ha
    have hw8 : w < 8 := ha.2.2.1
    refine ⟨fun hi => hprotect _ (hd.trans (decodeRing_other hi _)),
      fun hw hi => hprotect _ (hd.trans (decodeRing_notHost hw hi _)), fun hw hi hfull => ?_,
      fun hw hi hfull hstate hlow => ?_, fun hw hi hfull hstate hlast hdata => ?_⟩ <;>
      refine hprotect _ (hd.trans ((decodeRing_hostWrite hw8 hw hi).trans ?_))
    · exact decodeSlotWrite_width hfull
    · exact decodeSlotWrite_submitted hfull hstate hlow
    · subst hlast
      exact decodeSlotWrite_badRequest hfull hstate hdata
  · have hd := decodeCycle_reportWord ht ha
    refine ⟨fun hi => hprotect _ (hd.trans ?_), fun hw hi => hprotect _ (hd.trans ?_),
      fun hw hi hfull => hprotect _ (hd.trans ?_)⟩
    · simp only [decodeReport, hi, refuseProtect]
    · rcases hi with hi | hi <;> simp only [decodeReport, hi, show c.write = true from hw, refuseProtect, if_true]
    · simp [decodeReport, hi, show c.write = true from hw, hwidth hfull, refuseProtect]
  · have hd := decodeCycle_imageWord ha
    refine ⟨fun hi => hprotect _ (hd.trans ?_), fun hi => hprotect _ (hd.trans ?_), fun hw hi => hprotect _ (hd.trans ?_),
      fun hw hi hsched => hprotect _ (hd.trans ?_)⟩
    · simp only [decodeImage, hi, refuseProtect]
    · simp only [decodeImage, hi, refuseProtect]
    · simp only [decodeImage, hi, show c.write = true from hw, refuseProtect, if_true]
    · rcases hsched with hsched | hsched <;> simp [decodeImage, hi, show c.write = true from hw, hsched, refuseProtect]
  · have hd := decodeCycle_statusWord ha
    refine ⟨fun hi => hprotect _ (hd.trans ?_), fun hi => hprotect _ (hd.trans ?_), fun hw hi => hprotect _ (hd.trans ?_),
      fun hw hi hfull => hprotect _ (hd.trans ?_), fun hw hi hfull hword => hprotect _ (hd.trans ?_)⟩
    · simp only [decodeStatus, hi, refuseProtect]
    · simp only [decodeStatus, hi, refuseProtect]
    · simp only [decodeStatus, hi, show c.write = true from hw, refuseProtect, if_true]
    · simp [decodeStatus, hi, show c.write = true from hw, hwidth hfull, refuseProtect]
    · have hwritable : writableStatusWord w = false := by
        simp only [List.mem_cons, List.not_mem_nil, or_false, not_or] at hword
        simp [writableStatusWord, hword]
      simp [decodeStatus, hi, show c.write = true from hw, hfullw hfull, hwritable, refuseProtect]

/-! ### The end of a memory-port cycle (R147, R148, R151, R158) -/

section
variable {s : State}

theorem masterInFlight_loader (h : LoaderReads s) : masterInFlight s = none := by
  obtain ⟨m, hm, howner⟩ := h
  cases hu : s.bpu.upstream <;> simp [masterInFlight, hm, hu, howner]

theorem loaderInFlight_of (h : LoaderReads s) : loaderInFlight s = true := by
  obtain ⟨m, hm, howner⟩ := h
  simp [loaderInFlight, hm, howner]

/-- What a load that fails leaves, its read in flight or done (R173, R178). -/
theorem failLoad_eq (r : ImageReason) (s : State) : failLoad r (freePort s) = loadFailed r s := by
  have hstatus : (rejectReload s.iml.kind s).csu.status =
      if s.iml.kind = .reload then { code := 3, outcome := .rejected, reason := .none } else s.csu.status := by
    cases s.iml.kind <;> rfl
  have hsched : failedSched s = if s.iml.kind = .reload ∧ s.iml.origin = some .hold then .hold else .unloaded := by
    simp only [failedSched]
    cases hkind : s.iml.kind <;> cases horigin : s.iml.origin with
    | none => simp
    | some o => cases o <;> simp
  have hwritten : raiseFlag .imageRejected (endLoad r
      (rejectReload (freePort s).iml.kind (setSched (failedSched (freePort s)) (freePort s)))) =
      ((s.setBpu { s.bpu with memPort := none, indexStall := false }).setIml (idleLoader r)).setCsu
      { s.csu with
        sched := failedSched s
        status := (rejectReload s.iml.kind s).csu.status
        flags := flagsWith s .imageRejected } := by
    have hkind : (freePort s).iml.kind = s.iml.kind := rfl
    rw [hkind]
    cases s.iml.kind <;> rfl
  rw [failLoad, loadFailed, hwritten, hstatus, hsched]

theorem memoryAcknowledged_loader (h : LoaderReads s) (v : Word) :
    memoryAcknowledged v s = loaderAcknowledged v false s := by
  simp only [memoryAcknowledged, masterInFlight_loader h, loaderInFlight_of h, if_true]

end

/-- Settles O33. -/
theorem memoryAcknowledgeEndsCycle : Obligations.MemoryAcknowledgeEndsCycle := by
  refine fun v s => ⟨fun u o h hnot => ?_, fun h hphase => ?_, fun h hphase hread => ?_, fun h hphase hsubmit hkind => ?_⟩
  · have heffect (x : State) : acknowledgedEffect o u.cycle.data x = x := by
      cases o with
      | snoop x => exact absurd rfl (hnot x)
      | pass => rfl
      | redirect a => rfl
    have htaken : memoryAcknowledged v s = masterAcknowledged u o v s := by
      simp only [memoryAcknowledged, masterInFlight_of h]
    calc exec (.memoryAcknowledge v) s
        = .next (memoryAcknowledged v s) := rfl
      _ = _ := by
        rw [htaken, masterAcknowledged, heffect]
        rfl
  · have hfetch : fetchPhase s = true := by rcases hphase with h | h <;> simp [fetchPhase, h]
    calc exec (.memoryAcknowledge v) s
        = .next (memoryAcknowledged v s) := rfl
      _ = .next (loaderAcknowledged v true s) := by
        rw [memoryAcknowledged_loader h]
        rcases hphase with h | h <;> simp only [loaderAcknowledged, h]
      _ = exec (.fetchRead v) s := by
        show _ = Host.Outcome.next (if loaderInFlight s && fetchPhase s then loaderAcknowledged v true s else s)
        rw [loaderInFlight_of h, hfetch]
        rfl
  · calc exec (.memoryAcknowledge v) s
        = .next (memoryAcknowledged v s) := rfl
      _ = .next (loaderAcknowledged v true s) := by
        rw [memoryAcknowledged_loader h]
        have hkept : (freePort s).iml = s.iml := rfl
        cases hsub : s.iml.indexSubmit with
        | none => simp only [loaderAcknowledged, hphase, indexWordRead, hkept, hsub]
        | some x =>
          have hkind : s.iml.kind = .powerOn := hread.resolve_left (by simp [hsub])
          simp only [loaderAcknowledged, hphase, indexWordRead, hkept, hsub, takeWordRead, hkind]
          rfl
      _ = exec (.indexRead v) s := by
        show _ = Host.Outcome.next (if loaderInFlight s && s.iml.phase == .index then loaderAcknowledged v true s else s)
        rw [loaderInFlight_of h, hphase]
        rfl
  · obtain ⟨x, hx⟩ := Option.ne_none_iff_exists'.mp hsubmit
    have hkept : (freePort s).iml = s.iml := rfl
    calc exec (.memoryAcknowledge v) s
        = .next (memoryAcknowledged v s) := rfl
      _ = .next (takeWordRead v false (freePort s)) := by
        rw [memoryAcknowledged_loader h]
        simp only [loaderAcknowledged, hphase, indexWordRead, hkept, hx]
      _ = _ := by
        rw [takeWordRead_left (by rw [hkept, hkind]; decide)]
        rfl

/-- Settles O34. -/
theorem memoryPortTimeoutEndsCycle : Obligations.MemoryPortTimeoutEndsCycle := by
  refine fun s => ⟨fun u o h => ?_, fun h => ?_⟩
  · have htaken : memoryTimedOut s = masterTimedOut u s := by simp only [memoryTimedOut, masterInFlight_of h]
    calc exec .memoryPortTimeout s
        = .next (memoryTimedOut s) := rfl
      _ = _ := by
        rw [htaken, masterTimedOut, raiseFault_eq (f := .busTimeout) rfl]
        rfl
  · have htaken : memoryTimedOut s = failLoad .busTimeout (freePort s) := by
      simp only [memoryTimedOut, masterInFlight_loader h, loaderInFlight_of h, if_true]
    calc exec .memoryPortTimeout s
        = .next (memoryTimedOut s) := rfl
      _ = _ := by rw [htaken, failLoad_eq]

/-- Settles O35. -/
theorem cycleAbandoned : Obligations.CycleAbandoned := by
  refine fun s u hu => ⟨fun hstage => ?_, fun hstage => ?_⟩
  · have h : abandonCycle s = setUpstream none s.bpu.ending s := by simp only [abandonCycle, hu, hstage]
    exact congrArg _ h
  · have h : abandonCycle s = setUpstream (some { u with abandoned := true }) s.bpu.ending s := by
      cases hs : u.stage with
      | held => exact absurd hs hstage
      | waiting o => simp only [abandonCycle, hu, hs]
      | inFlight o => simp only [abandonCycle, hu, hs]
    exact congrArg _ h

end Sys2Proof.Machine

/-! PROOFS. A cycle carried out at its presentation (R150, R151): what is answered, what is handed to the arbiter, and what
a stall holds (R159, R160). -/

namespace Sys2Proof.Machine

open Safety

section
variable {t : Tables} {s : State} {c : Cycle} {o : MemOutcome}

/-- A decoded cycle on its way to the port, as the arbiter finds it. -/
def waitingCycle (c : Cycle) (o : MemOutcome) (s : State) : State :=
  s.setBpu { s.bpu with upstream := some { cycle := c, stage := .waiting o, abandoned := false }, ending := .idle }

theorem exec_passedCycle (h : Accepting s) : exec (.passedCycle c) s = .next (carryOut c (decodeCycle s c) s) := by
  calc exec (.passedCycle c) s
      = .next (present anyOutcome c s) := rfl
    _ = _ := by
      rw [present_accepting h]
      rfl

theorem handed_of_decode (h : Accepting s) (hd : decodeCycle s c = .memory o) : HandedToArbiter c s o := by
  rw [HandedToArbiter, exec_passedCycle h, hd]
  rfl

theorem answered_of_decode {v : Word} (h : Accepting s) (hd : decodeCycle s c = .answer v) : Answered c s v := by
  obtain ⟨-, hup, -⟩ := id h
  rw [Answered, exec_passedCycle h, hd]
  simp only [carryOut, endCycle, setUpstream]
  rw [← hup]

theorem exec_passedCycle_memory (h : Accepting s) (hd : decodeCycle s c = .memory o) :
    exec (.passedCycle c) s = .next (grant (waitingCycle c o s)) := handed_of_decode h hd

/-- The part of the decode that reads no address: a cycle presented while a stall is in force (R159, R160). -/
theorem exec_passedCycle_held (hresetn : s.bpu.resetn = false) (hup : s.bpu.upstream = none)
    (hstall : s.csu.sched = .loading ∨ s.bpu.indexStall = true) : exec (.passedCycle c) s =
      .next (setUpstream (some { cycle := c, stage := .held, abandoned := false }) .idle s) := by
  have hstalled : stalled s = true := by rcases hstall with h | h <;> simp [stalled, h]
  have hpresent : present anyOutcome c s =
      setUpstream (some { cycle := c, stage := .held, abandoned := false }) .idle s := by
    simp [present, hresetn, hup, hstalled]
  rw [← hpresent]
  rfl

theorem endStall_held {u : UpCycle} (hu : s.bpu.upstream = some u) (hstage : u.stage = .held) : endStall s =
    carryOut u.cycle (decodeCycle s u.cycle) (setUpstream none s.bpu.ending s) := by
  simp only [endStall, hu, hstage]

theorem endStall_stands (h : ∀ u, s.bpu.upstream = some u → u.stage ≠ .held) : endStall s = s := by
  cases hu : s.bpu.upstream with
  | none => simp only [endStall, hu]
  | some u =>
    cases hs : u.stage with
    | held => exact absurd hs (h u hu)
    | waiting o => simp only [endStall, hu, hs]
    | inFlight o => simp only [endStall, hu, hs]

/-! ### Words that the part answers -/

/-- An epoch value presented digit by digit (R13). -/
theorem presentTime_eq (x : Nat) : presentTime x = BitVec.ofNat 16
    (x % 86400 / 36000 * 4096 + x % 86400 / 3600 % 10 * 256 + x % 3600 / 600 * 16 + x % 3600 / 60 % 10) := by
  have hhours : x % 86400 / 3600 / 10 = x % 86400 / 36000 := Nat.div_div_eq_div_mul _ _ _
  have hminutes : x % 86400 / 60 % 60 = x % 3600 / 60 := by omega
  have htens : x % 3600 / 60 / 10 = x % 3600 / 600 := Nat.div_div_eq_div_mul _ _ _
  rw [presentTime, bcdOf, bcdOf, timeOfDay, hhours, hminutes, htens]
  refine congrArg (BitVec.ofNat 16) ?_
  omega

theorem statusWord_eq (late : Bool) (st : EntryState) (r : Reason) : statusWord late st r =
    BitVec.ofNat 16 ((if late = true then 2048 else 0) + entryStateCode st * 256 + reasonCode r) := by
  cases late <;> simp [statusWord, flagBit]

/-! ### A read of the ring (R27, R40, R41, R14 to R16, R128) -/

variable {k : Fin 64} {w : Nat}

theorem decodeSlotRead_pass (h : w < 6 ∨ (s.ob.at k).state = .free) :
    decodeSlotRead s k w = .memory .pass := by
  simp only [decodeSlotRead]
  split
  next => rfl
  next hlow =>
    have hfree := h.resolve_left hlow
    simp only [hfree]
    split <;> rfl

theorem decodeSlotRead_grant (h : (s.ob.at k).state = .released ∨ (s.ob.at k).state = .dispatched) :
    decodeSlotRead s k 6 = .answer (grantWord (s.ob.at k).grant) := by
  rcases h with h | h <;> simp [decodeSlotRead, h]

theorem decodeSlotRead_noGrant (h : (s.ob.at k).state ≠ .released) (h' : (s.ob.at k).state ≠ .dispatched) :
    decodeSlotRead s k 6 = .memory .pass := by
  cases hstate : (s.ob.at k).state <;> simp_all [decodeSlotRead]

theorem decodeSlotRead_status (h : (s.ob.at k).state ≠ .free) :
    decodeSlotRead s k 7 = .answer (entryStatusWord (s.ob.at k)) := by
  simp [decodeSlotRead, h]

theorem positionEntry_at {d : Nat} {x : Released} (hd : d < t.map.ringSize.slots)
    (hk : slotOf t.map.ringSize (indexAfter s.rt.take d) = k) (hin : d < dist s.rt.take s.rt.release)
    (hx : s.rt.list[d]? = some x) : positionEntry t s k = some x := by
  have hdist : distToSlot t.map.ringSize s.rt.take k = d := by rw [← hk, distToSlot_slotOf _ hd]
  simp only [positionEntry, hdist, if_pos hin, hx]

theorem decodeLinkRead_host {x : Released} {j : Fin 64} (hx : positionEntry t s k = some x) (hj : x.origin = .host j) :
    decodeLinkRead t s k w =
      if w < 6 then .memory (.redirect (t.map.ringBase + BitVec.ofNat 20 (8 * j.val + w)))
      else if w = 6 then .answer (presentTime x.grant)
      else .answer (statusWord (s.ob.at j).late .released .none) := by
  simp only [decodeLinkRead, hx, hj]

theorem decodeLinkRead_internal {x : Released} {e : Fin 8} {o : InternalOrder} (hx : positionEntry t s k = some x)
    (he : x.origin = .internal e) (ho : storeOrder (s.ilu.store.at e) = some o) : decodeLinkRead t s k w =
      if w < 6 then .answer (linkImage o e w)
      else if w = 6 then .answer (presentTime x.grant)
      else .answer (statusWord false .released .none) := by
  simp only [decodeLinkRead, hx, he, ho]

theorem decodeLinkRead_grant {x : Released} (hx : positionEntry t s k = some x) :
    decodeLinkRead t s k 6 = .answer (presentTime x.grant) := by
  cases ho : x.origin <;> simp [decodeLinkRead, hx, ho]

end

/-! ### PASSED_CYCLE -/

/-- Outcome by outcome: the port's grant, the answer, the stall and its end. -/
theorem passedCycle_outcomes (c : Cycle) (s : State) :
    (∀ o, Accepting s → decodeCycle s c = .memory o → s.bpu.memPort = none → loaderAddr s = none →
      exec (.passedCycle c) s = .next (masterGranted { cycle := c, stage := .waiting o, abandoned := false } o
        (waitingCycle c o s)))
    ∧ (∀ o, Accepting s → decodeCycle s c = .memory o → s.bpu.memPort.isSome = true →
      exec (.passedCycle c) s = .next (waitingCycle c o s))
    ∧ (∀ u, s.bpu.upstream = some u → u.stage = .held → u.cycle = c → s.bpu.resetn = false → stalled s = false →
        exec (.passedCycle c) (s.setBpu { s.bpu with upstream := none }) = .next (endStall s)) := by
  refine ⟨fun o h hd hport hl => ?_, fun o h hd hport => ?_, fun u hu hstage hc hresetn hstall => ?_⟩
  · rw [exec_passedCycle_memory h hd]
    exact congrArg _ (grant_master h.1 hport rfl rfl hl)
  · rw [exec_passedCycle_memory h hd]
    exact congrArg _ (grant_busy (waitingCycle c o s) hport)
  · subst hc
    have hdropped : Accepting (s.setBpu { s.bpu with upstream := none }) := ⟨hresetn, rfl, hstall⟩
    rw [exec_passedCycle hdropped, endStall_held hu hstage]
    rfl

/-- Settles O32: the outcomes, and then the decode window by window. -/
theorem passedCycleCarriedOut : Obligations.PassedCycleCarriedOut := by
  refine ⟨fun c s => ?_, ?_, fun c s h => ⟨fun ht ha => ?_, fun ha hread hi => ?_, fun ha hwrite hi hsched => ?_⟩⟩
  · obtain ⟨hgranted, hbusy, hstallEnd⟩ := passedCycle_outcomes c s
    refine ⟨fun o h hd => handed_of_decode h hd, fun o h hd hport hl => ?_, hbusy, fun v h hd => answered_of_decode h hd,
      fun hresetn hup hstall => exec_passedCycle_held hresetn hup hstall, hstallEnd, endStall_stands⟩
    rw [hgranted o h hd hport hl]
    cases o <;> rfl
  · intro c s t h ht shown answered passed snooped atStation
    have hpassed (hd : decodeCycle s c = .memory .pass) : passed := handed_of_decode h hd
    have hsnooped (x : SnoopTarget) (hd : decodeCycle s c = .memory (.snoop x)) : snooped x := handed_of_decode h hd
    have hshown {g : Epoch} (hd : decodeCycle s c = .answer (presentTime g)) : answered (shown g) :=
      answered_of_decode h (hd.trans (by rw [presentTime_eq]))
    refine ⟨fun k w ha hi hread => ?_, fun k w d x ha hi hread hd hk hin hx => ?_, fun k w ha hi hwrite hfull hfree => ?_,
      fun ha => ?_, fun ha => ?_, fun b w ha => ?_, fun houtside ha => hpassed (decodeCycle_unmapped ht houtside ha)⟩
    · intro e
      have hw8 : w < 8 := ha.2.2.1
      have hdecode : decodeCycle s c = decodeSlotRead s k w := (decodeCycle_ringWord ht ha).trans (decodeRing_read hw8 hread hi)
      refine ⟨fun hpass => hpassed (hdecode.trans (decodeSlotRead_pass hpass)), fun hw hstate g hg => ?_,
        fun hw hstate hstate' => ?_, fun hw hstate => ?_⟩
      · subst hw
        refine hshown (hdecode.trans ((decodeSlotRead_grant hstate).trans ?_))
        rw [show (s.ob.at k).grant = some g from hg]
        rfl
      · subst hw
        exact hpassed (hdecode.trans (decodeSlotRead_noGrant hstate hstate'))
      · subst hw
        refine answered_of_decode h (hdecode.trans ((decodeSlotRead_status hstate).trans ?_))
        rw [entryStatusWord, statusWord_eq]
    · have hw8 : w < 8 := ha.2.2.1
      have hdecode : decodeCycle s c = decodeLinkRead t s k w :=
        (decodeCycle_ringWord ht ha).trans (decodeRing_linkRead hw8 hread hi)
      have hposition : positionEntry t s k = some x := positionEntry_at hd hk hin hx
      refine ⟨fun hw => ?_, fun j hj => ⟨fun hw => ?_, fun hw => ?_⟩, fun e o he ho => ?_⟩
      · subst hw
        exact hshown (hdecode.trans (decodeLinkRead_grant hposition))
      · exact handed_of_decode h (hdecode.trans ((decodeLinkRead_host hposition hj).trans (if_pos hw)))
      · subst hw
        refine answered_of_decode h (hdecode.trans ((decodeLinkRead_host hposition hj).trans ?_))
        rw [if_neg (by decide), if_neg (by decide), statusWord_eq]
        rfl
      · have hlink := hdecode.trans (decodeLinkRead_internal hposition he ho)
        have himage (hw : w < 6) : decodeCycle s c = .answer (linkImage o e w) := hlink.trans (if_pos hw)
        refine ⟨fun hw => ?_, fun hw => ?_, fun hw => ?_, fun hw => ?_, fun hw => ?_⟩
        · subst hw
          exact answered_of_decode h (himage (by decide))
        · subst hw
          exact answered_of_decode h (himage (by decide))
        · rcases hw with hw | hw | hw <;> subst hw <;> exact answered_of_decode h (himage (by decide))
        · subst hw
          exact answered_of_decode h (himage (by decide))
        · subst hw
          refine answered_of_decode h (hlink.trans ?_)
          rw [if_neg (by decide), if_neg (by decide), statusWord_eq]
          rfl
    · have hw8 : w < 8 := ha.2.2.1
      have hdecode : decodeCycle s c = _ :=
        (decodeCycle_ringWord ht ha).trans ((decodeRing_hostWrite hw8 hwrite hi).trans (decodeSlotWrite_free hfull hfree))
      refine ⟨fun hw => ?_, fun hw => hpassed (hdecode.trans (if_neg (Nat.not_lt.mpr hw)))⟩
      refine hsnooped _ (hdecode.trans ((if_pos hw).trans ?_))
      have hword : Fin.ofNat 6 w = ⟨w, hw⟩ := Fin.ext (Nat.mod_eq_of_lt hw)
      rw [hword]
    · have hdecode := decodeCycle_submitWord ht ha
      refine ⟨fun hread hi => answered_of_decode h (hdecode.trans ?_), fun hread hi => hpassed (hdecode.trans ?_),
        fun hwrite hi hfull hsched hlegal => hsnooped _ (hdecode.trans ?_)⟩
      · simp [decodeSubmit, hi, hread]
      · rcases hi with hi | hi <;> simp [decodeSubmit, hi, hread]
      · rw [decodeSubmit_hostWrite t s hwrite hi, if_neg (not_not.mpr hfull), if_neg hsched,
          if_pos (legalSubmit_eq_true.mpr hlegal)]
    · have hdecode := decodeCycle_takeWord ht ha
      refine ⟨fun hread hi => answered_of_decode h (hdecode.trans ?_), fun hread hi => hpassed (hdecode.trans ?_),
        fun hwrite hi hfull hlegal => hsnooped _ (hdecode.trans ?_)⟩
      · rcases hi with hi | hi <;> simp [decodeTake, hi, hread]
      · simp [decodeTake, hi, hread]
      · have hlegal' : legalTake s c.data = true := decide_eq_true hlegal
        simp [decodeTake, hi, hwrite, full_iff.mpr hfull, hlegal']
    · have hdecode := decodeCycle_reportWord ht ha
      have hw8 : w < 8 := ha.2.2.1
      have hhouse : Fin.ofNat 12 ((8 * b.val + w) / 8) = b := Fin.ext (by simp only [Fin.ofNat]; omega)
      have hword : (8 * b.val + w) % 8 = w := by omega
      refine ⟨fun hread hi => hpassed (hdecode.trans ?_), fun hwrite hi hfull => ⟨fun hw => hsnooped _ (hdecode.trans ?_),
        fun hw => hsnooped _ (hdecode.trans ?_)⟩⟩
      · cases hinit : c.init with
        | other => exact absurd hinit hi
        | host => simp [decodeReport, hinit, hread]
        | link => simp [decodeReport, hinit, hread]
        | panel => simp [decodeReport, hinit, hread]
      · subst hw
        simp only [decodeReport, hi, hwrite, full_iff.mpr hfull, hhouse, hword, Bool.not_true, Bool.false_eq_true,
          if_false, if_true]
      · have hlow : Fin.ofNat 7 w = ⟨w, hw⟩ := Fin.ext (Nat.mod_eq_of_lt hw)
        simp only [decodeReport, hi, hwrite, full_iff.mpr hfull, hhouse, hword, hlow, Nat.ne_of_lt hw, Bool.not_true,
          Bool.false_eq_true, if_false]
  · exact handed_of_decode h (decodeCycle_noTables ht ha)
  · refine handed_of_decode h ((decodeCycle_imageWord ha).trans ?_)
    rcases hi with hi | hi <;> simp [decodeImage, hi, hread]
  · refine handed_of_decode h ((decodeCycle_imageWord ha).trans ?_)
    rcases hsched with hsched | hsched <;> simp [decodeImage, hi, hwrite, hsched]

end Sys2Proof.Machine

/-! PROOFS. The loader's index reads, the index stall, and the completion of a load of either kind (R4, R47, R113, R160,
R173, R176 to R178). -/

namespace Sys2Proof.Machine

open Safety

/-! ### The loader's rows with its read in flight -/

section
variable {s : State} {v : Word}

theorem exec_fetchRead (h : LoaderReads s) (hphase : s.iml.phase = .header ∨ s.iml.phase = .body) :
    exec (.fetchRead v) s = .next (imageWordRead v (freePort s)) := by
  have hfetch : fetchPhase s = true := by rcases hphase with h | h <;> simp [fetchPhase, h]
  calc exec (.fetchRead v) s
      = .next (if loaderInFlight s && fetchPhase s then loaderAcknowledged v true s else s) := rfl
    _ = .next (loaderAcknowledged v true s) := by
      rw [loaderInFlight_of h, hfetch]
      rfl
    _ = _ := by rcases hphase with h | h <;> simp only [loaderAcknowledged, h]

theorem exec_indexRead (h : LoaderReads s) (hphase : s.iml.phase = .index) :
    exec (.indexRead v) s = .next (indexWordRead v true (freePort s)) := by
  calc exec (.indexRead v) s
      = .next (if loaderInFlight s && s.iml.phase == .index then loaderAcknowledged v true s else s) := rfl
    _ = .next (loaderAcknowledged v true s) := by
      rw [loaderInFlight_of h, hphase]
      rfl
    _ = _ := by simp only [loaderAcknowledged, hphase]

/-- The submit word's address in the staged image (11.7). -/
theorem loaderAddr_submit (hphase : s.iml.phase = .index) (h : s.bpu.indexStall = true ∨ s.iml.kind = .powerOn)
    (hsubmit : s.iml.indexSubmit = none) : loaderAddr s = some (BitVec.ofNat 20
      ((s.iml.staging.getD 3 0).toNat + (s.iml.staging.getD 4 0).toNat % 16 * 65536)) := by
  rw [loaderAddr_index hphase h, hsubmit]
  exact congrArg some (addressField_staged _ 3)

/-- The take word's address in the staged image (11.7). -/
theorem loaderAddr_take {b : Word} (hphase : s.iml.phase = .index) (h : s.bpu.indexStall = true ∨ s.iml.kind = .powerOn)
    (hsubmit : s.iml.indexSubmit = some b) : loaderAddr s = some (BitVec.ofNat 20
      ((s.iml.staging.getD 5 0).toNat + (s.iml.staging.getD 6 0).toNat % 16 * 65536)) := by
  rw [loaderAddr_index hphase h, hsubmit]
  exact congrArg some (addressField_staged _ 5)

theorem noMasterWaits_of_none (h : s.bpu.upstream = none) : NoMasterWaits s :=
  fun _ _ hu => nomatch h.symm.trans hu

end

/-- Settles O41. -/
theorem indexStallAndSubmitRead : Obligations.IndexStallAndSubmitRead := by
  refine ⟨fun s hkind hphase hstall hup => ?_, fun v s h hphase hsubmit => ?_, fun v b s h hphase hsubmit hkind => ?_⟩
  · have hgrantable : stallGrantable s = true := by simp [stallGrantable, hkind, hphase, hstall, hup]
    have hgranted : exec .indexStall s = .next (grant (s.setBpu { s.bpu with indexStall := true })) :=
      congrArg _ (serveIndexStall_grants hgrantable)
    refine ⟨hgranted, fun hresetn hsubmit hport => ?_⟩
    exact hgranted.trans (congrArg _ (grant_loader hresetn hport (masterWaiting_eq_none (noMasterWaits_of_none hup))
      (loaderAddr_submit hphase (.inl rfl) hsubmit)))
  · have hread : exec (.indexRead v) s = .next (grant
        ((s.setIml { s.iml with indexSubmit := some v }).setBpu { s.bpu with memPort := none })) := by
      have hkept : (freePort s).iml = s.iml := rfl
      rw [exec_indexRead h hphase]
      simp only [indexWordRead, hkept, hsubmit]
      rfl
    refine ⟨hread, fun hresetn hmaster hallowed => ?_⟩
    exact hread.trans (congrArg _ (grant_loader hresetn rfl (masterWaiting_eq_none hmaster)
      (loaderAddr_take hphase hallowed.symm rfl)))
  · obtain ⟨-, -, -, hleft⟩ := memoryAcknowledgeEndsCycle v s
    exact hleft h hphase (by simp [hsubmit]) hkind

/-! ### The completion event (R173, R176) -/

section
variable {s : State} {v b : Word}

/-- The state in which the completion event is taken: the port free and both index values read. -/
def completionState (v : Word) (s : State) : State :=
  freePort (s.setIml { s.iml with indexTake := some v, phase := .complete })

theorem exec_indexRead_completes (h : LoaderReads s) (hphase : s.iml.phase = .index) (hsubmit : s.iml.indexSubmit = some b) :
    exec (.indexRead v) s = .next (completeLoad b v (completionState v s)) := by
  have hsubmit' : (freePort s).iml.indexSubmit = some b := hsubmit
  rw [exec_indexRead h hphase]
  simp only [indexWordRead, hsubmit']
  exact congrArg _ (takeWordRead_completes hsubmit' (.inl rfl))

theorem completionState_self (hport : s.bpu.memPort = none) (hphase : s.iml.phase = .complete)
    (htake : s.iml.indexTake = some v) : completionState v s = s := by
  have himl : { s.iml with indexTake := some v, phase := .complete } = s.iml := by rw [← htake, ← hphase]
  have hbpu : { s.bpu with memPort := none } = s.bpu := by rw [← hport]
  calc completionState v s
      = (s.setIml { s.iml with indexTake := some v, phase := .complete }).setBpu { s.bpu with memPort := none } := rfl
    _ = s := by rw [himl, hbpu]; rfl

theorem exec_indexStall_completes (hport : s.bpu.memPort = none) (hphase : s.iml.phase = .complete)
    (hsubmit : s.iml.indexSubmit = some b) (htake : s.iml.indexTake = some v) :
    exec .indexStall s = .next (completeLoad b v (completionState v s)) := by
  rw [completionState_self hport hphase htake]
  exact congrArg _ ((serveIndexStall_complete hphase).trans (takeCompletion_of_values hsubmit htake))

end

/-! ### The swap (R46, R113, R177) -/

section
variable {new : Tables} {p : Fin 32}

theorem configuredIn_iff (tables : Option Tables) :
    configuredIn tables p = true ↔ ∃ old, tables = some old ∧ configured old p = true := by
  cases tables <;> simp [configuredIn]

/-- A pump of both images keeps its dynamic fields. -/
theorem swapPump_kept {old : Option Tables} (hold : configuredIn old p = true) (hnew : configured new p = true) (r : PumpRec) :
    swapPump old new p r = { r with allowance := (new.pumps.at p).startsPerHour } := by
  simp only [swapPump, hold, hnew, if_true]

/-- Any other pump starts from its RESETN condition. -/
theorem swapPump_reset {old : Option Tables} (h : ¬ (configuredIn old p = true ∧ configured new p = true)) (r : PumpRec) :
    swapPump old new p r = { PumpRec.reset with
      allowance := if configured new p = true then (new.pumps.at p).startsPerHour else 0 } := by
  cases hnew : configured new p
  · simp only [swapPump, hnew]
    rfl
  · have hold : configuredIn old p = false := by simpa [hnew] using h
    simp only [swapPump, hnew, hold]
    rfl

theorem swapRsu_bits (old : Option Tables) (rsu : Rsu) :
    (swapRsu old new rsu).runningBits.at p = (configuredIn old p && configured new p && rsu.runningBits.at p)
      ∧ (swapRsu old new rsu).faultBits.at p = (configuredIn old p && configured new p && rsu.faultBits.at p) := by
  simp [swapRsu]

end

/-- Settles O42: the swap, HOLD and the loader's idle condition, and nothing else. -/
theorem powerOnLoadCompletes : Obligations.PowerOnLoadCompletes := by
  intro v b s h hphase hkind hsubmit new
  have hnone (ht : s.tables = none) (p : Fin 32) : configuredIn s.tables p = false := by rw [ht]; rfl
  have hdone : exec (.indexRead v) s =
      .next (grant (endStall (succeed (swapTables new b v (completionState v s))))) := by
    rw [exec_indexRead_completes h hphase hsubmit, completeLoad_powerOn (s := completionState v s) hkind]
    rfl
  refine ⟨_, hdone, rfl, rfl, Tab.at_all _, Tab.at_all _, fun ht p => ?_, Tab.at_all _, Tab.at_all _, fun ht p => ?_,
    rfl, rfl, Tab.at_all _, Tab.at_all _, rfl, rfl, rfl, rfl, rfl, rfl⟩
  · have hreset := swapPump_reset (new := new) (p := p) (old := s.tables) (by simp [hnone ht]) (s.psu.pumps.at p)
    exact (Tab.at_ofFn _ p).trans hreset
  · have hbits := swapRsu_bits (new := new) (p := p) s.tables s.rsu
    rw [hnone ht] at hbits
    exact hbits

/-! ### A reload's completion (R47, R145, R176, R178) -/

theorem plantMismatch_iff {old new : Tables} {s : State} {p : Fin 32} : plantMismatch old new s p = true ↔
    configured old p = true ∧ (s.psu.pumps.at p).state ≠ .stopped
      ∧ (configured new p = false ∨ (new.pumps.at p).house ≠ (old.pumps.at p).house
          ∨ (new.pumps.at p).feeder ≠ (old.pumps.at p).feeder) := by
  simp only [plantMismatch, Bool.and_eq_true, Bool.or_eq_true, bne_iff_ne, Bool.not_eq_true', and_assoc, or_assoc]

/-- The plant check fails on a configured pump, not STOPPED, that the new image drops or moves (R47). -/
theorem plantAgrees_eq_false (new : Tables) (s : State) : plantAgrees new s = false ↔
    ∃ old p, s.tables = some old ∧ configured old p = true ∧ (s.psu.pumps.at p).state ≠ .stopped
      ∧ (configured new p = false ∨ (new.pumps.at p).house ≠ (old.pumps.at p).house
          ∨ (new.pumps.at p).feeder ≠ (old.pumps.at p).feeder) := by
  cases ht : s.tables with
  | none => simp [plantAgrees, ht]
  | some old =>
    simp only [plantAgrees, ht, List.all_eq_false, List.mem_finRange, true_and, Bool.not_eq_true, Bool.not_eq_false',
      plantMismatch_iff, Option.some.injEq, exists_and_left, exists_eq_left']

theorem capHit_eq_decide (cap tally : Nat) : capHit cap tally = decide (cap ≠ 0 ∧ cap * 16 ≤ tally) := by
  rw [Bool.eq_iff_iff]
  simp [capHit]

/-- What a reload's swap and release write, before the held cycle is decoded (R176, steps 3 and 4). -/
def reloaded (new : Tables) (b v : Word) (s : State) : State :=
  requestPass (raiseFlag .reloadDone (setStatus 3 .done .none (succeed (judgeCapAfresh (swapTables new b v s)))))

theorem completeReload_done {new : Tables} {b v : Word} {s : State} (hquiet : quiet s = true)
    (hplant : plantAgrees new s = true) : completeReload new b v s = grant (endStall (reloaded new b v s)) := by
  simp only [completeReload, hquiet, hplant]
  rfl

theorem reloaded_eq (new : Tables) (b v : Word) (s : State) :
    let hit := capHit (new.bands.at s.cbu.band).cap s.cbu.tally
    let x := reloaded new b v s
    (x.tables = some new ∧ x.rt = swapRt b v ∧ x.ob = Tab.all Entry.reset ∧ x.psu = swapPsu s.tables new s.psu
        ∧ x.rsu = swapRsu s.tables new s.rsu ∧ x.ilu = { s.ilu with store := Tab.all .free, owed := Tab.all none })
      ∧ x.csu = { s.csu with
        sched := .hold
        status := { code := 3, outcome := .done, reason := .none }
        flags := (if hit && !s.cbu.capReached then flagsWith s .energyCap else s.csu.flags) ||| flagMask .reloadDone }
      ∧ x.ra.requests = s.ra.requests + 1 ∧ x.iml = idleLoader .none ∧ x.cbu = { s.cbu with capReached := hit }
      ∧ x.bpu = { s.bpu with indexStall := false, timeout := new.timeout } := by
  intro hit x
  have hjudged : judgeCapAfresh (swapTables new b v s) = raiseFlagIf (hit && !s.cbu.capReached) .energyCap
      ((swapTables new b v s).setCbu { s.cbu with capReached := hit }) := rfl
  simp only [x, reloaded, hjudged]
  cases hit && !s.cbu.capReached <;> exact ⟨⟨rfl, rfl, rfl, rfl, rfl, rfl⟩, rfl, rfl, rfl, rfl, rfl⟩

theorem exec_reloadCompletes {c : Instr} {v b : Word} {s : State}
    (hexec : exec c s = .next (completeLoad b v (completionState v s))) (hkind : s.iml.kind = .reload) :
    exec c s = .next (completeReload (parseTables s.iml.staging) b v (completionState v s)) := by
  rw [hexec, completeLoad_reload (s := completionState v s) hkind]
  rfl

/-- Settles O43: the re-check, the plant check, then what the swap and the release write. -/
theorem reloadCompletes : Obligations.ReloadCompletes := by
  intro c v b s hrow hkind new had mismatch cap hit
  have hexec : exec c s = .next (completeReload new b v (completionState v s)) := by
    refine exec_reloadCompletes ?_ hkind
    rcases hrow with ⟨rfl, h, hphase, hsubmit⟩ | ⟨rfl, hport, hphase, hsubmit, htake⟩
    · exact exec_indexRead_completes h hphase hsubmit
    · exact exec_indexStall_completes hport hphase hsubmit htake
  have hquiet : quiet (completionState v s) = true ↔ Quiet s := quiet_iff _
  have hplant : plantAgrees new (completionState v s) = false ↔ mismatch := plantAgrees_eq_false new _
  have hfailed (r : ImageReason) : failLoad r (completionState v s) = loadFailed r s := failLoad_eq r _
  refine ⟨fun hq => ?_, fun hq hm => ?_, fun hq hm => ?_⟩
  · have hnot : quiet (completionState v s) = false := Bool.eq_false_iff.mpr (fun e => hq (hquiet.mp e))
    rw [hexec, completeReload, hnot, ← hfailed]
    rfl
  · rw [hexec, completeReload, hquiet.mpr hq, hplant.mpr hm, ← hfailed]
    rfl
  · have hagrees : plantAgrees new (completionState v s) = true := by
      rw [← Bool.not_eq_false]
      exact fun e => hm (hplant.mp e)
    have hdone : exec c s = .next (grant (endStall (reloaded new b v (completionState v s)))) := by
      rw [hexec, completeReload_done (hquiet.mpr hq) hagrees]
    obtain ⟨⟨htables, hrt, hob, hpsu, hrsu, hilu⟩, hcsu, hra, himl, hcbu, hbpu⟩ :=
      reloaded_eq new b v (completionState v s)
    have hhit : hit = capHit cap s.cbu.tally := (capHit_eq_decide _ _).symm
    have hhad (p : Fin 32) : configuredIn s.tables p = true ↔ had p := configuredIn_iff _
    have hpump (p : Fin 32) : (swapPsu s.tables new s.psu).pumps.at p = swapPump s.tables new p (s.psu.pumps.at p) :=
      Tab.at_ofFn _ p
    have hbits (p : Fin 32) := swapRsu_bits (new := new) (p := p) s.tables s.rsu
    refine ⟨_, hdone, htables, hrt, fun k => ?_, fun p hold hnew => ?_, fun p hnot => ?_, fun g => ?_, fun e => ?_,
      fun p => ?_, ?_, fun h => ?_, fun r => ?_, ?_, ?_, hhit ▸ hcsu, hra, himl, hhit ▸ hcbu, hbpu⟩
    · rw [hob, Tab.at_all]
    · have hboth : configuredIn s.tables p = true := (hhad p).mpr hold
      obtain ⟨hrunning, hfault⟩ := hbits p
      rw [hboth, hnew] at hrunning hfault
      rw [hpsu, hrsu]
      exact ⟨(hpump p).trans (swapPump_kept hboth hnew _), hrunning, hfault⟩
    · have hnot' : ¬ (configuredIn s.tables p = true ∧ configured new p = true) := by rwa [hhad]
      have hdropped : (configuredIn s.tables p && configured new p) = false := by simpa using hnot'
      obtain ⟨hrunning, hfault⟩ := hbits p
      rw [hdropped] at hrunning hfault
      rw [hpsu, hrsu]
      exact ⟨(hpump p).trans (swapPump_reset hnot' _), hrunning, hfault⟩
    · rw [hpsu]
      exact Tab.at_all _ g
    · rw [hilu]
      exact Tab.at_all _ e
    · rw [hilu]
      exact Tab.at_all _ p
    · rw [hilu]
      rfl
    · rw [hrsu]
      exact Tab.at_all _ h
    · rw [hrsu]
      exact Tab.at_all _ r
    · rw [hrsu]
      rfl
    · rw [hrsu]
      rfl

end Sys2Proof.Machine

/-! PROOFS. The image read word by word: what each word stages, the checks at the end of HEADER and of BODY, and the tables
of an image that passes them (R166 to R172, 11.7). -/

namespace Sys2Proof.Machine

open Safety

/-! ### The checks as ranges over the image's words -/

section
variable {l : List Word}

theorem within_iff {lo hi n : Nat} : within lo hi n = true ↔ lo ≤ n ∧ n ≤ hi := by
  simp only [within, Bool.and_eq_true, decide_eq_true_eq]

/-- An address field of the header is the number of its 20 bits. -/
theorem headerAddr_toNat (l : List Word) (k : Nat) : (headerAddr l k).toNat = imageAddress (stagedNat l) k := by
  have hlow := (staged l k).isLt
  have hbelow : imageAddress (stagedNat l) k < 2 ^ 20 := by
    simp only [imageAddress, stagedNat]
    omega
  rw [headerAddr, addressField_staged]
  exact Nat.mod_eq_of_lt hbelow

theorem stagedRingSize_isSome : (stagedRingSize l).isSome = true ↔ stagedNat l 9 % 16 ≤ 3 := by
  have hcode : field (staged l 9) 0 4 = stagedNat l 9 % 16 := by simp [field, stagedNat]
  rw [stagedRingSize, hcode]
  have hlt : stagedNat l 9 % 16 < 16 := Nat.mod_lt _ (by decide)
  generalize stagedNat l 9 % 16 = code at hlt
  interval_cases code <;> decide

theorem ringSizeIn_slots (h : stagedNat l 9 % 16 ≤ 3) : (ringSizeIn l).slots = 8 * 2 ^ (stagedNat l 9 % 16) := by
  have hcode : field (staged l 9) 0 4 = stagedNat l 9 % 16 := by simp [field, stagedNat]
  rw [ringSizeIn, stagedRingSize, hcode]
  generalize stagedNat l 9 % 16 = code at h
  interval_cases code <;> rfl

theorem headerInRange_iff : headerInRange l = true ↔ stagedNat l 9 % 16 ≤ 3
    ∧ (1 ≤ stagedNat l 10 ∧ stagedNat l 10 ≤ 32) ∧ (1 ≤ stagedNat l 11 ∧ stagedNat l 11 ≤ 12)
    ∧ (1 ≤ stagedNat l 12 ∧ stagedNat l 12 ≤ 16) ∧ (1 ≤ stagedNat l 13 ∧ stagedNat l 13 ≤ 4)
    ∧ (60 ≤ stagedNat l 14 ∧ stagedNat l 14 ≤ 7200) ∧ (4 ≤ stagedNat l 15 ∧ stagedNat l 15 ≤ 255) := by
  simp only [headerInRange, Bool.and_eq_true, within_iff, stagedRingSize_isSome, and_assoc, pumpCountOf, houseCountOf,
    reservoirCountOf, feederCountOf]

/-- Check 5 (R170). -/
theorem rangeHolds_iff : rangeHolds l = true ↔ ImageInRange (stagedNat l) := by
  simp only [rangeHolds, Bool.and_eq_true, headerInRange_iff, List.all_eq_true, List.mem_range, pumpInRange, houseInRange,
    reservoirInRange, feederInRange, bandInRange, within_iff, Nat.zero_le, true_and, and_assoc, ImageInRange]
  rfl

/-! ### Placement (R171) -/

theorem apart_iff {a b : Nat × Nat} : apart a b = true ↔ a.1 + a.2 ≤ b.1 ∨ b.1 + b.2 ≤ a.1 := by
  simp only [apart, Bool.or_eq_true, decide_eq_true_eq]

theorem pairwiseApart_iff (windows : List (Nat × Nat)) : pairwiseApart windows = true ↔
    windows.Pairwise fun a b => a.1 + a.2 ≤ b.1 ∨ b.1 + b.2 ≤ a.1 := by
  induction windows with
  | nil => simp [pairwiseApart]
  | cons a rest ih =>
    simp only [pairwiseApart, Bool.and_eq_true, List.all_eq_true, apart_iff, ih, List.pairwise_cons]

/-- Check 6, the ring size code in its range. -/
theorem placementHolds_iff {base : Nat} (h : stagedNat l 9 % 16 ≤ 3) :
    placementHolds base l = true ↔ ImagePlaced base (stagedNat l) := by
  simp only [placementHolds, Bool.and_eq_true, List.all_eq_true, decide_eq_true_eq, pairwiseApart_iff, windowsOf,
    headerAddr_toNat, ringSizeIn_slots h, and_assoc]
  rfl

/-! ### Topology (R172) -/

theorem pumpAgrees_iff {k : Nat} : pumpAgrees l k = true ↔
    (stagedNat l (pumpAt k) < houseCountOf l ∧ stagedNat l (pumpAt k + 2) < feederCountOf l)
      ∧ ∀ j, j < k → ¬ (stagedNat l (pumpAt j) = stagedNat l (pumpAt k)
        ∧ stagedNat l (pumpAt j + 1) = stagedNat l (pumpAt k + 1)) := by
  simp only [pumpAgrees, Bool.and_eq_true, decide_eq_true_eq, List.all_eq_true, List.mem_range, Bool.or_eq_true, bne_iff_ne,
    ne_eq, not_and_or]

theorem reservoirAgrees_iff {k : Nat} : reservoirAgrees l k = true ↔
    (stagedNat l (reservoirAt l k) = 0 → stagedNat l (reservoirAt l k + 1) < stagedNat l (reservoirAt l k + 2)
      ∧ stagedNat l (reservoirAt l k + 2) < stagedNat l (reservoirAt l k + 3)) := by
  simp only [reservoirAgrees, Bool.or_eq_true, bne_iff_ne, Bool.and_eq_true, decide_eq_true_eq, Decidable.imp_iff_not_or]

/-- Check 7 (R170). -/
theorem topologyHolds_iff : topologyHolds l = true ↔ ImageAgrees (stagedNat l) := by
  simp only [topologyHolds, Bool.and_eq_true, List.all_eq_true, List.mem_range, pumpAgrees_iff, houseAgrees,
    reservoirAgrees_iff, decide_eq_true_eq]
  constructor
  · rintro ⟨⟨hpumps, hhouses⟩, hreservoirs⟩
    exact ⟨fun k hk => (hpumps k hk).1, hhouses, fun k hk => (hpumps k hk).2, hreservoirs⟩
  · rintro ⟨hrefs, hhouses, hplaces, hreservoirs⟩
    exact ⟨⟨fun k hk => ⟨hrefs k hk, hplaces k hk⟩, hhouses⟩, hreservoirs⟩

end

/-! ### The judgement at the end of HEADER and of BODY -/

section
variable {s : State} {v : Word}

theorem staged_eq_iff (l : List Word) (k : Nat) : staged l k = 1 ↔ stagedNat l k = 1 := by
  rw [← BitVec.toNat_inj]
  rfl

/-- Checks 2 and 3. -/
theorem headerCheck_cases (l : List Word) :
    (stagedNat l 0 ≠ 1 → headerCheck l = .format)
      ∧ (stagedNat l 0 = 1 → stagedNat l 16 ≠ countedWords (stagedNat l) ∨ 552 < stagedNat l 16 →
        headerCheck l = .length)
      ∧ (stagedNat l 0 = 1 → stagedNat l 16 = countedWords (stagedNat l) → stagedNat l 16 ≤ 552 →
        headerCheck l = .none) := by
  have hlength : imageLength l ≠ countedLength l ∨ Config.imageMax < imageLength l ↔
      stagedNat l 16 ≠ countedWords (stagedNat l) ∨ 552 < stagedNat l 16 := Iff.rfl
  refine ⟨fun hformat => ?_, fun hformat hbad => ?_, fun hformat hcount hmax => ?_⟩
  · rw [headerCheck, if_pos (mt (staged_eq_iff l 0).mp hformat)]
  · rw [headerCheck, if_neg (not_not.mpr ((staged_eq_iff l 0).mpr hformat)), if_pos (hlength.mpr hbad)]
  · have hgood : ¬ (stagedNat l 16 ≠ countedWords (stagedNat l) ∨ 552 < stagedNat l 16) := by
      simp only [not_or, not_not, not_lt]
      exact ⟨hcount, hmax⟩
    rw [headerCheck, if_neg (not_not.mpr ((staged_eq_iff l 0).mpr hformat)), if_neg (mt hlength.mp hgood)]

/-- Checks 4 to 7, each judged where those before it hold. -/
theorem bodyCheck_cases (base : Nat) (sum : Word) (l : List Word) :
    (sum ≠ 0 → bodyCheck base sum l = .checksum)
      ∧ (sum = 0 → ¬ ImageInRange (stagedNat l) → bodyCheck base sum l = .range)
      ∧ (sum = 0 → ImageInRange (stagedNat l) → ¬ ImagePlaced base (stagedNat l) → bodyCheck base sum l = .overlap)
      ∧ (sum = 0 → ImageInRange (stagedNat l) → ImagePlaced base (stagedNat l) → ¬ ImageAgrees (stagedNat l) →
        bodyCheck base sum l = .topology)
      ∧ (sum = 0 → ImageInRange (stagedNat l) → ImagePlaced base (stagedNat l) → ImageAgrees (stagedNat l) →
        bodyCheck base sum l = .none) := by
  have hplacement (h : ImageInRange (stagedNat l)) : placementHolds base l = true ↔ ImagePlaced base (stagedNat l) :=
    placementHolds_iff h.1
  rw [← rangeHolds_iff, ← topologyHolds_iff] at *
  refine ⟨fun hsum => ?_, fun hsum hrange => ?_, fun hsum hrange hplaced => ?_, fun hsum hrange hplaced hagrees => ?_,
    fun hsum hrange hplaced hagrees => ?_⟩
  · rw [bodyCheck, if_pos hsum]
  · simp [bodyCheck, hsum, hrange]
  · rw [← hplacement hrange] at hplaced
    simp [bodyCheck, hsum, hrange, hplaced]
  · rw [← hplacement hrange] at hplaced
    simp [bodyCheck, hsum, hrange, hplaced, hagrees]
  · rw [← hplacement hrange] at hplaced
    simp [bodyCheck, hsum, hrange, hplaced, hagrees]

/-- The state from which the load goes on (R169): the word staged and counted, the port free for the next read. -/
def wordStaged (phase : LoadPhase) (next : Nat) (v : Word) (s : State) : State :=
  (s.setIml { s.iml with phase, nextFetch := next, sum := s.iml.sum + v, staging := s.iml.staging ++ [v] }).setBpu
    { s.bpu with memPort := none }

theorem exec_fetchRead_header (h : LoaderReads s) (hphase : s.iml.phase = .header) (hn : s.iml.nextFetch < 31) :
    exec (.fetchRead v) s = .next (grant (wordStaged .header (s.iml.nextFetch + 1) v s)) := by
  have hphase' : (freePort s).iml.phase = .header := hphase
  have hn' : (freePort s).iml.nextFetch < 31 := hn
  rw [exec_fetchRead h (.inl hphase)]
  simp only [imageWordRead, hphase', if_pos hn']
  rfl

theorem exec_fetchRead_headerEnd (h : LoaderReads s) (hphase : s.iml.phase = .header) (hn : 31 ≤ s.iml.nextFetch) :
    (∀ r, r ≠ .none → headerCheck (s.iml.staging ++ [v]) = r → exec (.fetchRead v) s = .next (loadFailed r s))
      ∧ (headerCheck (s.iml.staging ++ [v]) = .none →
        exec (.fetchRead v) s = .next (grant (wordStaged .body (s.iml.nextFetch + 1) v s))) := by
  have hphase' : (freePort s).iml.phase = .header := hphase
  have hn' : ¬ (freePort s).iml.nextFetch < 31 := Nat.not_lt.mpr hn
  have hread : exec (.fetchRead v) s = .next (headerRead v (freePort s)) := by
    rw [exec_fetchRead h (.inl hphase)]
    simp only [imageWordRead, hphase', if_neg hn']
  refine ⟨fun r hr hcheck => ?_, fun hcheck => ?_⟩
  · have hcheck' : headerCheck ((freePort s).iml.staging ++ [v]) = r := hcheck
    rw [hread, ← failLoad_eq]
    cases r <;> simp only [headerRead, hcheck', ne_eq, not_true] at hr ⊢
  · have hcheck' : headerCheck ((freePort s).iml.staging ++ [v]) = .none := hcheck
    rw [hread]
    simp only [headerRead, hcheck']
    rfl

theorem exec_fetchRead_body (h : LoaderReads s) (hphase : s.iml.phase = .body)
    (hn : s.iml.nextFetch + 1 < imageLength s.iml.staging) :
    exec (.fetchRead v) s = .next (grant (wordStaged .body (s.iml.nextFetch + 1) v s)) := by
  have hphase' : (freePort s).iml.phase = .body := hphase
  have hn' : (freePort s).iml.nextFetch + 1 < imageLength (freePort s).iml.staging := hn
  rw [exec_fetchRead h (.inr hphase)]
  simp only [imageWordRead, hphase', if_pos hn']
  rfl

theorem exec_fetchRead_bodyEnd (h : LoaderReads s) (hphase : s.iml.phase = .body)
    (hn : imageLength s.iml.staging ≤ s.iml.nextFetch + 1) :
    let check := bodyCheck (regionBase s) (s.iml.sum + v) (s.iml.staging ++ [v])
    (∀ r, r ≠ .none → check = r → exec (.fetchRead v) s = .next (loadFailed r s))
      ∧ (check = .none → exec (.fetchRead v) s = .next (grant (wordStaged .index s.iml.nextFetch v s))) := by
  intro check
  have hphase' : (freePort s).iml.phase = .body := hphase
  have hn' : ¬ (freePort s).iml.nextFetch + 1 < imageLength (freePort s).iml.staging := Nat.not_lt.mpr hn
  have hread : exec (.fetchRead v) s = .next (bodyRead v (freePort s)) := by
    rw [exec_fetchRead h (.inr hphase)]
    simp only [imageWordRead, hphase', if_neg hn']
  have hsame : bodyCheck (regionBase (freePort s)) ((freePort s).iml.sum + v) ((freePort s).iml.staging ++ [v]) = check :=
    rfl
  refine ⟨fun r hr hcheck => ?_, fun hcheck => ?_⟩
  · rw [hread, ← failLoad_eq]
    cases r <;> simp only [bodyRead, hsame, hcheck, ne_eq, not_true] at hr ⊢
  · rw [hread]
    simp only [bodyRead, hsame, hcheck]
    rfl

end

/-! ### The tables of an image (R166, R167) -/

theorem fin_ofNat_val {n m : Nat} [NeZero n] (h : m < n) : (Fin.ofNat n m).val = m := Nat.mod_eq_of_lt h

theorem parseTables_header {l : List Word} (h : ImageInRange (stagedNat l)) :
    let t := parseTables l
    (t.map.ringBase.toNat = imageAddress (stagedNat l) 1 ∧ t.map.submitAddr.toNat = imageAddress (stagedNat l) 3
        ∧ t.map.takeAddr.toNat = imageAddress (stagedNat l) 5 ∧ t.map.reportBase.toNat = imageAddress (stagedNat l) 7)
      ∧ t.map.ringSize.slots = 8 * 2 ^ (stagedNat l 9 % 16) ∧ t.map.houseCount.val = stagedNat l 11
      ∧ t.pumpCount.val = stagedNat l 10 ∧ t.reservoirCount.val = stagedNat l 12
      ∧ t.feederCount.val = stagedNat l 13 := by
  obtain ⟨hring, ⟨-, hpumps⟩, ⟨-, hhouses⟩, ⟨-, hreservoirs⟩, ⟨-, hfeeders⟩, -⟩ := h
  exact ⟨⟨headerAddr_toNat l 1, headerAddr_toNat l 3, headerAddr_toNat l 5, headerAddr_toNat l 7⟩, ringSizeIn_slots hring,
    fin_ofNat_val (Nat.lt_succ_of_le hhouses), fin_ofNat_val (Nat.lt_succ_of_le hpumps),
    fin_ofNat_val (Nat.lt_succ_of_le hreservoirs), fin_ofNat_val (Nat.lt_succ_of_le hfeeders)⟩

/-- Settles O40: word by word, then the checks, then the tables of 11.7. -/
theorem fetchReadStagesWord : Obligations.FetchReadStagesWord := by
  constructor
  · intro v s h n sum w goesOn fails
    refine ⟨fun hphase => ⟨exec_fetchRead_header h hphase, fun hn => ?_⟩,
      fun hphase => ⟨exec_fetchRead_body h hphase, fun hn => ?_⟩⟩
    · obtain ⟨hfails, hpasses⟩ := exec_fetchRead_headerEnd (v := v) h hphase hn
      obtain ⟨hformat, hlength, hnone⟩ := headerCheck_cases (s.iml.staging ++ [v])
      exact ⟨fun h0 => hfails .format (by decide) (hformat h0),
        fun h0 hbad => hfails .length (by decide) (hlength h0 hbad),
        fun h0 hcount hmax => hpasses (hnone h0 hcount hmax)⟩
    · obtain ⟨hfails, hpasses⟩ := exec_fetchRead_bodyEnd (v := v) h hphase hn
      obtain ⟨hchecksum, hrange, hoverlap, htopology, hnone⟩ :=
        bodyCheck_cases (regionBase s) sum (s.iml.staging ++ [v])
      exact ⟨fun h4 => hfails .checksum (by decide) (hchecksum h4),
        fun h4 h5 => hfails .range (by decide) (hrange h4 h5),
        fun h4 h5 h6 => hfails .overlap (by decide) (hoverlap h4 h5 h6),
        fun h4 h5 h6 h7 => hfails .topology (by decide) (htopology h4 h5 h6 h7),
        fun h4 h5 h6 h7 => hpasses (hnone h4 h5 h6 h7)⟩
  · intro l w P H R F t hrange hagrees
    obtain ⟨haddresses, hslots, hhouseCount, hpumpCount, hreservoirCount, hfeederCount⟩ := parseTables_header hrange
    obtain ⟨-, ⟨-, hP⟩, ⟨-, hH⟩, ⟨-, hR⟩, ⟨-, hF⟩, -, -, hpumps, hhouses, -⟩ := hrange
    obtain ⟨hpumpRefs, hhouseRefs, -, -⟩ := hagrees
    refine ⟨haddresses, hslots, hhouseCount, hpumpCount, hreservoirCount, hfeederCount, rfl, rfl, fun p hp => ?_,
      fun h hh => ?_, fun r hr => ?_, fun f hf => Tab.at_ofFn _ f, fun b => ?_⟩
    · have hentry : t.pumps.at p = pumpOf l p.val := Tab.at_ofFn _ p
      obtain ⟨hhouse, hfeeder⟩ := hpumpRefs p.val hp
      obtain ⟨hposition, -⟩ := hpumps p.val hp
      rw [hentry]
      exact ⟨fin_ofNat_val (hhouse.trans_le hH), fin_ofNat_val (Nat.lt_succ_of_le hposition),
        fin_ofNat_val (hfeeder.trans_le hF), rfl, rfl, rfl, rfl, rfl, rfl⟩
    · have hentry : t.houses.at h = houseOf l h.val := Tab.at_ofFn _ h
      obtain ⟨hsuction, hdelivery⟩ := hhouseRefs h.val hh
      obtain ⟨hgroup, -⟩ := hhouses h.val hh
      rw [hentry]
      exact ⟨fin_ofNat_val (hsuction.trans_le hR), fin_ofNat_val (hdelivery.trans_le hR),
        fin_ofNat_val (Nat.lt_succ_of_le hgroup), rfl, rfl⟩
    · have hentry : t.reservoirs.at r = reservoirOf l r.val := Tab.at_ofFn _ r
      rw [hentry]
      exact ⟨beq_iff_eq, rfl, rfl, rfl⟩
    · have hentry : t.bands.at b = bandEntryOf l b.val := Tab.at_ofFn _ b
      rw [hentry]
      exact ⟨rfl, rfl⟩

end Sys2Proof.Machine

/-! PROOFS. A visit of a sweep (R189 to R191). -/

namespace Sys2Proof.Machine

open Safety

section
variable {s y : State} {t : Tables}

/-- The sweep's record and the status after a visit: the next index raised, and the sweep ended at its end index. -/
def visitMoved (s : State) : Csu :=
  if s.csu.sweep.next + 1 = s.csu.sweep.last then { s.csu with
      sweep := { s.csu.sweep with kind := .none, next := s.csu.sweep.next + 1 }
      status := { code := if s.csu.sweep.kind = .cancelTag then 5 else 6, outcome := .done, reason := .none }
      flags := flagsWith s .sweepDone }
    else { s.csu with sweep := { s.csu.sweep with next := s.csu.sweep.next + 1 } }

theorem sweepCode_eq {kind : SweepKind} (h : kind ≠ .none) : sweepCode kind = if kind = .cancelTag then 5 else 6 := by
  cases kind with
  | none => exact absurd rfl h
  | cancelTag => rfl
  | withdrawHouse => rfl

theorem sweepReason_eq {kind : SweepKind} (h : kind ≠ .none) :
    sweepReason kind = if kind = .cancelTag then .tagSweep else .houseWithdrawn := by
  cases kind with
  | none => exact absurd rfl h
  | cancelTag => rfl
  | withdrawHouse => rfl

/-- The end of a visit, whatever it did to the entry. -/
theorem endSweepIfDone_visit (hkind : s.csu.sweep.kind ≠ .none) (hy : y.csu = s.csu) :
    endSweepIfDone (y.setCsu { y.csu with sweep := { y.csu.sweep with next := y.csu.sweep.next + 1 } })
      = y.setCsu (visitMoved s) := by
  rw [hy, visitMoved, ← sweepCode_eq hkind]
  by_cases hlast : s.csu.sweep.next + 1 = s.csu.sweep.last
  · rw [endSweepIfDone, if_pos ⟨hkind, hlast⟩, if_pos hlast]
    rfl
  · rw [endSweepIfDone, if_neg (fun h => hlast h.2), if_neg hlast]

theorem exec_sweepVisit (ht : s.tables = some t) (hkind : s.csu.sweep.kind ≠ .none)
    (hnext : s.csu.sweep.next ≠ s.csu.sweep.last) : exec .sweepVisit s = .next (sweepVisit t s) := by
  have hdue : visitDue s = true := by simp [visitDue, hkind, hnext]
  have htaken : takeVisit s = sweepVisit t s := by simp only [takeVisit, ht, hdue, if_true]
  exact congrArg _ htaken

/-- An entry the sweep passes over. -/
theorem sweepVisit_passes (hkind : s.csu.sweep.kind ≠ .none)
    (h : ¬ ((s.ob.at (slotOf t.map.ringSize s.csu.sweep.next)).state = .waiting
      ∧ (s.ob.at (slotOf t.map.ringSize s.csu.sweep.next)).mark = true)) : sweepVisit t s = s.setCsu (visitMoved s) := by
  simp only [sweepVisit, if_neg h]
  exact endSweepIfDone_visit hkind rfl

/-- An entry a visit cancels (R189). -/
def sweptEntry (s : State) (e : Entry) : Entry := leaveWaiting .cancelled (sweepReason s.csu.sweep.kind) e

/-- The entry under the sweep cancelled, and the reclaim index advanced (R189, R33). -/
def visitCancelled (t : Tables) (s : State) : State :=
  let k := slotOf t.map.ringSize s.csu.sweep.next
  reclaimAdvance t (putEntry k (sweptEntry s (s.ob.at k)) s)

theorem sweepVisit_cancels (hkind : s.csu.sweep.kind ≠ .none)
    (h : (s.ob.at (slotOf t.map.ringSize s.csu.sweep.next)).state = .waiting
      ∧ (s.ob.at (slotOf t.map.ringSize s.csu.sweep.next)).mark = true) :
    sweepVisit t s = (requestPass (visitCancelled t s)).setCsu (visitMoved s) := by
  have hcsu : (requestPass (visitCancelled t s)).csu = s.csu := by
    show (visitCancelled t s).csu = s.csu
    simp [visitCancelled, putEntry]
  simp only [sweepVisit, if_pos h]
  exact endSweepIfDone_visit hkind hcsu

end

/-- Settles O50: the visit itself, and what the reclaim advance behind it frees. -/
theorem sweepVisitTaken : Obligations.SweepVisitTaken := by
  intro s t ht hkind hnext k e moved
  have hvisit := exec_sweepVisit ht hkind hnext
  refine ⟨fun h => hvisit.trans (congrArg _ (sweepVisit_passes hkind h)), fun hwaiting hmark => ?_⟩
  have hat (j : Fin 64) : (visitCancelled t s).ob.at j = (putEntry k (sweptEntry s e) s).ob.at j
      ∨ (finished ((putEntry k (sweptEntry s e) s).ob.at j).state = true
        ∧ (visitCancelled t s).ob.at j = Entry.reset) :=
    reclaimAdvance_ob t (putEntry k (sweptEntry s e) s) j
  have hswept : (putEntry k (sweptEntry s e) s).ob.at k = { e with
      state := .cancelled
      reason := if s.csu.sweep.kind = .cancelTag then .tagSweep else .houseWithdrawn
      mark := false } := by
    rw [← sweepReason_eq hkind]
    exact Tab.at_put_same _ _ _
  obtain ⟨hsubmit, htake, hrelease, hlist⟩ := reclaimAdvance_indexes t (putEntry k (sweptEntry s e) s)
  obtain ⟨hbpu, htables, hra, hpsu, hrsu, hilu, hcbu, himl, -⟩ := reclaimAdvance_keeps t (putEntry k (sweptEntry s e) s)
  refine ⟨_, hvisit.trans (congrArg _ (sweepVisit_cancels hkind ⟨hwaiting, hmark⟩)), ?_, fun j hj => ?_,
    congrArg (·.requests + 1) hra, rfl, hsubmit, htake, hrelease, hlist, hbpu, htables, hpsu, hrsu, hilu, hcbu, himl⟩
  · rw [← hswept]
    exact (hat k).imp id And.right
  · have hother : (putEntry k (sweptEntry s e) s).ob.at j = s.ob.at j := Tab.at_put_other _ _ hj
    exact hother ▸ hat j

end Sys2Proof.Machine

/-! PROOFS. The status block (11.6, R155, R181, R192 to R197): what its writes do, what its words hold, and ALERT. -/

namespace Sys2Proof.Machine

open Safety

/-! ### Fields side by side -/

/-- Fields of n bits from bit 0 are digits in base 2ⁿ, least significant first. -/
theorem packFields_eq_ofDigits (n : Nat) (xs : List Nat) : packFields n xs = Nat.ofDigits (2 ^ n) xs := by
  induction xs with
  | nil => rfl
  | cons x xs ih => rw [packFields, ih, Nat.ofDigits_cons]

section
variable {n m : Nat} {f : Fin m → Nat}

theorem packFields_lt (hn : n ≠ 0) (hf : ∀ i, f i < 2 ^ n) :
    packFields n ((List.finRange m).map f) < (2 ^ n) ^ m := by
  have hdigits : ∀ x ∈ (List.finRange m).map f, x < 2 ^ n := by simpa using hf
  have hlt := Nat.ofDigits_lt_base_pow_length (Nat.one_lt_two_pow hn) hdigits
  rw [packFields_eq_ofDigits]
  simpa using hlt

theorem packFields_digit {xs : List Nat} (hx : ∀ x ∈ xs, x < 2 ^ n) (i : Nat) :
    packFields n xs / (2 ^ n) ^ i % 2 ^ n = xs.getD i 0 := by
  induction xs generalizing i with
  | nil => simp [packFields]
  | cons x xs ih =>
    have hhead : x < 2 ^ n := hx x List.mem_cons_self
    have hrest := ih (fun y hy => hx y (List.mem_cons_of_mem x hy))
    cases i with
    | zero => simp [packFields, Nat.mod_eq_of_lt hhead]
    | succ i =>
      have hshift : (x + 2 ^ n * packFields n xs) / 2 ^ n = packFields n xs := by
        rw [Nat.add_mul_div_left _ _ (Nat.two_pow_pos n), Nat.div_eq_of_lt hhead, Nat.zero_add]
      rw [packFields, pow_succ', ← Nat.div_div_eq_div_mul, hshift, hrest]
      rfl

/-- Field i of a word whose fields are numbered. -/
theorem packFields_field (hf : ∀ i, f i < 2 ^ n) (i : Fin m) :
    packFields n ((List.finRange m).map f) / (2 ^ n) ^ i.val % 2 ^ n = f i := by
  have hdigits : ∀ x ∈ (List.finRange m).map f, x < 2 ^ n := by simpa using hf
  rw [packFields_digit hdigits]
  simp

end

/-! ### The codes fit their fields (11.8) -/

theorem schedCode_lt (x : Sched) : schedCode x < 16 := by cases x <;> decide

theorem imageReasonCode_lt (x : ImageReason) : imageReasonCode x < 16 := by cases x <;> decide

theorem sweepKindCode_lt (x : SweepKind) : sweepKindCode x < 16 := by cases x <;> decide

theorem outcomeCode_lt (x : CommandOutcome) : outcomeCode x < 16 := by cases x <;> decide

theorem commandReasonCode_lt (x : CommandReason) : commandReasonCode x < 16 := by cases x <;> decide

theorem faultKindCode_lt (x : FaultKind) : faultKindCode x < 16 := by cases x <;> decide

theorem initiatorCode_lt (x : Initiator) : initiatorCode x < 16 := by cases x <;> decide

theorem faultCauseCode_lt (x : FaultCause) : faultCauseCode x < 16 := by cases x <;> decide

theorem pumpStateCode_lt (x : PumpState) : pumpStateCode x < 8 := by cases x <;> decide

theorem lockReasonCode_lt (x : LockReason) : lockReasonCode x < 4 := by cases x <;> decide

theorem storeStateCode_lt (x : StoreEntry) : storeStateCode x < 2 ^ 2 := by cases x <;> norm_num [storeStateCode]

theorem groupCode_lt (x : GroupRec) : groupCode x < 2 ^ 2 := by cases x <;> norm_num [groupCode]

theorem freshnessCode_lt (x : Freshness) : freshnessCode x < 2 ^ 2 := by cases x <;> norm_num [freshnessCode]

theorem flagBit_lt (b : Bool) : flagBit b < 2 := by cases b <;> decide

/-! ### The words -/

section
variable {s : State}

theorem word_toNat {x : Nat} (h : x < 65536) : (BitVec.ofNat 16 x).toNat = x := Nat.mod_eq_of_lt h

theorem statusBlockWord_0 : (statusBlockWord s 0).toNat =
    schedCode s.csu.sched + imageReasonCode s.iml.reason * 16 + sweepKindCode s.csu.sweep.kind * 256 := by
  have hsched := schedCode_lt s.csu.sched
  have hreason := imageReasonCode_lt s.iml.reason
  have hkind := sweepKindCode_lt s.csu.sweep.kind
  exact word_toNat (by omega)

theorem statusBlockWord_argument (n : Fin 3) : statusBlockWord s (2 + n.val) = s.csu.arguments.at n :=
  match n with
  | 0 => rfl
  | 1 => rfl
  | 2 => rfl

theorem shownCode_eq (code : Word) : shownCode code = min code.toNat 255 := by
  rw [shownCode]
  split <;> omega

theorem statusBlockWord_5 : (statusBlockWord s 5).toNat = min s.csu.status.code.toNat 255
    + outcomeCode s.csu.status.outcome * 256 + commandReasonCode s.csu.status.reason * 4096 := by
  have houtcome := outcomeCode_lt s.csu.status.outcome
  have hreason := commandReasonCode_lt s.csu.status.reason
  rw [← shownCode_eq]
  refine word_toNat ?_
  rw [shownCode_eq]
  omega

/-- The flags and the enables stand at their own bits, bit 15 clear. -/
theorem setWidth_word_toNat (x : BitVec 15) : (x.setWidth 16).toNat = x.toNat := by
  rw [BitVec.toNat_setWidth]
  exact Nat.mod_eq_of_lt (x.isLt.trans (by decide))

theorem presentTime_toNat (x : Nat) : (presentTime x).toNat =
    x % 86400 / 36000 * 4096 + x % 86400 / 3600 % 10 * 256 + x % 3600 / 600 * 16 + x % 3600 / 60 % 10 := by
  rw [presentTime_eq]
  exact word_toNat (by omega)

theorem bcd_seconds (x : Nat) : bcdOf (timeOfDay x % 60) = x % 60 / 10 * 16 + x % 60 % 10 := by
  have hseconds : x % 86400 % 60 = x % 60 := Nat.mod_mod_of_dvd x (by decide)
  rw [bcdOf, timeOfDay, hseconds]

theorem statusBlockWord_9 : (statusBlockWord s 9).toNat = s.cbu.now % 60 / 10 * 16 + s.cbu.now % 60 % 10
    + s.cbu.band.val * 256 + flagBit s.cbu.capReached * 16384 + flagBit s.cbu.clockSet * 32768 := by
  have hcap := flagBit_lt s.cbu.capReached
  have hclock := flagBit_lt s.cbu.clockSet
  have hband := s.cbu.band.isLt
  have hseconds : bcdOf (timeOfDay s.cbu.now % 60) < 256 := by
    rw [bcdOf]
    omega
  rw [← bcd_seconds]
  exact word_toNat (by omega)

theorem dayCount_lt {x : Nat} (h : x < 4294944000) : dayCount x < 65536 := by
  rw [dayCount]
  omega

theorem statusBlockWord_tally (h : s.cbu.tally ≤ 16777215) :
    (statusBlockWord s 11).toNat + (statusBlockWord s 12).toNat * 65536 = s.cbu.tally
      ∧ (statusBlockWord s 12).toNat < 256 := by
  have hlow : (statusBlockWord s 11).toNat = s.cbu.tally % 65536 := rfl
  have hhigh : (statusBlockWord s 12).toNat = s.cbu.tally / 65536 % 256 := word_toNat (by omega)
  omega

theorem entriesIn_le (st : EntryState) : entriesIn s st ≤ 64 := by
  refine List.countP_le_length.trans ?_
  simp

theorem statusBlockWord_17 : (statusBlockWord s 17).toNat = entriesIn s .waiting + entriesIn s .released * 256 := by
  have hwaiting := entriesIn_le (s := s) .waiting
  have hreleased := entriesIn_le (s := s) .released
  exact word_toNat (by omega)

theorem statusBlockWord_18 (e : Fin 8) :
    (statusBlockWord s 18).toNat / 4 ^ e.val % 4 = storeStateCode (s.ilu.store.at e) := by
  have hword : (statusBlockWord s 18).toNat =
      packFields 2 ((List.finRange 8).map fun e => storeStateCode (s.ilu.store.at e)) :=
    word_toNat (packFields_lt (by decide) fun e => storeStateCode_lt _)
  rw [hword]
  exact packFields_field (fun e => storeStateCode_lt _) e

theorem storeUse_le : storeUse s ≤ 8 := by
  refine List.countP_le_length.trans ?_
  simp

/-- The houses' local-control bits, below the store's count. -/
theorem statusBlockWord_19 :
    (∀ h : Fin 12, (statusBlockWord s 19).toNat / 2 ^ h.val % 2 = flagBit (s.rsu.houses.at h).localControl)
      ∧ (statusBlockWord s 19).toNat / 4096 = storeUse s := by
  have huse := storeUse_le (s := s)
  have hbits (h : Fin 12) : flagBit (s.rsu.houses.at h).localControl < 2 ^ 1 := flagBit_lt _
  have hlt := packFields_lt (by decide) hbits
  have hfield := packFields_field hbits
  have hword : (statusBlockWord s 19).toNat =
      packFields 1 ((List.finRange 12).map fun h => flagBit (s.rsu.houses.at h).localControl) + storeUse s * 4096 :=
    word_toNat (by omega)
  rw [hword]
  generalize packFields 1 ((List.finRange 12).map fun h => flagBit (s.rsu.houses.at h).localControl) = bits at hlt hfield
  refine ⟨fun h => ?_, by omega⟩
  have hpow : 4096 = 2 ^ h.val * (2 * 2 ^ (11 - h.val)) := by
    rw [← pow_succ', ← pow_add, show h.val + (11 - h.val + 1) = 12 by omega]
    rfl
  have hsplit : (bits + storeUse s * 4096) / 2 ^ h.val = bits / 2 ^ h.val + 2 * (2 ^ (11 - h.val) * storeUse s) := by
    rw [hpow, show storeUse s * (2 ^ h.val * (2 * 2 ^ (11 - h.val))) = 2 ^ h.val * (2 * (2 ^ (11 - h.val) * storeUse s)) by ring,
      Nat.add_mul_div_left _ _ (Nat.two_pow_pos _)]
  rw [hsplit, Nat.add_mul_mod_self_left]
  exact hfield h

theorem statusBlockWord_20 (g : Fin 8) :
    (statusBlockWord s 20).toNat / 4 ^ g.val % 4 = groupCode (s.psu.groups.at g) := by
  have hword : (statusBlockWord s 20).toNat =
      packFields 2 ((List.finRange 8).map fun g => groupCode (s.psu.groups.at g)) :=
    word_toNat (packFields_lt (by decide) fun g => groupCode_lt _)
  rw [hword]
  exact packFields_field (fun g => groupCode_lt _) g

theorem statusBlockWord_21 : (statusBlockWord s 21).toNat =
    faultKindCode s.bpu.capture.kind + initiatorCode s.bpu.capture.init * 16
      + faultCauseCode s.bpu.capture.cause * 256 + s.bpu.capture.addr.toNat / 65536 * 4096 := by
  have hkind := faultKindCode_lt s.bpu.capture.kind
  have hinit := initiatorCode_lt s.bpu.capture.init
  have hcause := faultCauseCode_lt s.bpu.capture.cause
  have haddr := s.bpu.capture.addr.isLt
  exact word_toNat (by omega)

/-- The houses' freshness, eight to word 26 and four to word 27. -/
theorem statusBlockWord_freshness (h : Fin 12) :
    (if h.val < 8 then (statusBlockWord s 26).toNat / 4 ^ h.val else (statusBlockWord s 27).toNat / 4 ^ (h.val - 8)) % 4
      = freshnessCode (s.rsu.houses.at h).freshness := by
  split
  next hlow =>
    have hword : (statusBlockWord s 26).toNat = packFields 2
        ((List.finRange 8).map fun h => freshnessCode (s.rsu.houses.at (Fin.ofNat 12 h.val)).freshness) :=
      word_toNat (packFields_lt (by decide) fun h => freshnessCode_lt _)
    have hhouse : Fin.ofNat 12 h.val = h := Fin.ext (Nat.mod_eq_of_lt h.isLt)
    rw [hword]
    refine (packFields_field (fun h => freshnessCode_lt _) (⟨h.val, hlow⟩ : Fin 8)).trans ?_
    rw [hhouse]
  next hhigh =>
    have hword : (statusBlockWord s 27).toNat = packFields 2
        ((List.finRange 4).map fun h => freshnessCode (s.rsu.houses.at (Fin.ofNat 12 (8 + h.val))).freshness) :=
      word_toNat ((packFields_lt (by decide) fun h => freshnessCode_lt _).trans (by decide))
    have hhouse : Fin.ofNat 12 (8 + (h.val - 8)) = h := Fin.ext (by simp only [Fin.ofNat]; omega)
    rw [hword]
    refine (packFields_field (fun h => freshnessCode_lt _) (⟨h.val - 8, by omega⟩ : Fin 4)).trans ?_
    rw [hhouse]

theorem statusBlockWord_27_lt : (statusBlockWord s 27).toNat < 256 := by
  have hlt : packFields 2
      ((List.finRange 4).map fun h => freshnessCode (s.rsu.houses.at (Fin.ofNat 12 (8 + h.val))).freshness) < 256 :=
    packFields_lt (by decide) fun h => freshnessCode_lt _
  exact (Nat.mod_le _ _).trans_lt hlt

theorem statusBlockWord_feeder (f : Fin 4) : statusBlockWord s (28 + f.val) = feederWord s f :=
  match f with
  | 0 => rfl
  | 1 => rfl
  | 2 => rfl
  | 3 => rfl

theorem statusBlockWord_pump (p : Fin 32) : statusBlockWord s (32 + p.val) = pumpWord s p := by
  have hp : Fin.ofNat 32 (32 + p.val - 32) = p := Fin.ext (by simp only [Fin.ofNat]; omega)
  have hdefault (w : Nat) : statusBlockWord s (w + 32) = pumpWord s (Fin.ofNat 32 (w + 32 - 32)) := rfl
  rw [Nat.add_comm, hdefault, Nat.add_comm, hp]

theorem pumpWord_unconfigured {p : Fin 32} (h : ∀ t, s.tables = some t → configured t p = false) : pumpWord s p = 0 := by
  cases ht : s.tables with
  | none => simp only [pumpWord, ht]
  | some t => simp [pumpWord, ht, h t ht]

theorem pumpWord_configured {p : Fin 32} {t : Tables} (ht : s.tables = some t) (hp : configured t p = true)
    (hwaiting : waitingCount s p ≤ 2) (hallowance : (s.psu.pumps.at p).allowance ≤ 15) : (pumpWord s p).toNat =
      pumpStateCode (s.psu.pumps.at p).state + lockReasonCode (s.psu.pumps.at p).lock * 8 + waitingCount s p * 32
        + (s.psu.pumps.at p).allowance * 128 + flagBit (s.rsu.runningBits.at p) * 2048
        + flagBit (s.rsu.faultBits.at p) * 4096 + flagBit (s.ilu.owed.at p).isSome * 8192
        + flagBit (s.psu.pumps.at p).started * 16384 := by
  have hstate := pumpStateCode_lt (s.psu.pumps.at p).state
  have hlock := lockReasonCode_lt (s.psu.pumps.at p).lock
  have hrunning := flagBit_lt (s.rsu.runningBits.at p)
  have hfault := flagBit_lt (s.rsu.faultBits.at p)
  have howed := flagBit_lt (s.ilu.owed.at p).isSome
  have hstarted := flagBit_lt (s.psu.pumps.at p).started
  have hwaiting' : waitingCount s p % 4 = waitingCount s p := Nat.mod_eq_of_lt (by omega)
  have hallowance' : (s.psu.pumps.at p).allowance % 16 = (s.psu.pumps.at p).allowance := Nat.mod_eq_of_lt (by omega)
  simp only [pumpWord, ht, hp, if_true, hwaiting', hallowance', stopOwed]
  exact word_toNat (by omega)

theorem feederWord_toNat {t : Tables} (ht : s.tables = some t) (f : Fin 4) :
    (feederWord s f).toNat = if f.val < t.feederCount.val then committedLoad t s f % 65536 else 0 := by
  simp only [feederWord, ht]
  split <;> rfl

theorem feederWord_unloaded (ht : s.tables = none) (f : Fin 4) : feederWord s f = 0 := by
  simp only [feederWord, ht]

/-! ### ALERT (R193) -/

theorem alert_iff : alert s = true ↔ s.bpu.resetn = false
    ∧ ∃ i, i < 15 ∧ s.csu.flags.getLsbD i = true ∧ s.csu.enables.getLsbD i = true := by
  have hzero : s.csu.flags &&& s.csu.enables ≠ 0 ↔
      ∃ i, i < 15 ∧ s.csu.flags.getLsbD i = true ∧ s.csu.enables.getLsbD i = true := by
    constructor
    · intro h
      by_contra hnone
      refine h (BitVec.eq_of_getLsbD_eq fun i hi => ?_)
      have hclear : ¬ (s.csu.flags.getLsbD i = true ∧ s.csu.enables.getLsbD i = true) := fun hset => hnone ⟨i, hi, hset⟩
      simpa using hclear
    · rintro ⟨i, hi, hflag, henable⟩ h
      have hbit : (s.csu.flags &&& s.csu.enables).getLsbD i = true := by simp [hflag, henable]
      rw [h] at hbit
      simp at hbit
  simp only [alert, Bool.and_eq_true, Bool.not_eq_true', bne_iff_ne, hzero]

/-! ### The writes and the reads of the status block -/

/-- A write of a status block word takes the word's own effect, and ends with UACK. -/
theorem statusWord_written (h : Accepting s) {w : Nat} (v : Word) (hw : w < 64) (hwritable : writableStatusWord w = true) :
    statusBlockWrite w v s = statusWrite (Fin.ofNat 64 w) v (acknowledged s) := by
  rw [statusBlockWrite_accepting h v hw hwritable, endCycle_accepting h]

theorem statusBlockWord_read (h : Accepting s) {c : Cycle} {w : Nat} (ha : StatusBlockWord s c.addr w)
    (hread : c.write = false) (hi : c.init = .host ∨ c.init = .panel) : Answered c s (statusBlockWord s w) := by
  refine answered_of_decode h ((decodeCycle_statusWord ha).trans ?_)
  rcases hi with hi | hi <;> simp [decodeStatus, hi, hread]

end

/-- Settles O52: the writes, the reads, the words in order, ALERT, and the codes of 11.8. In the statement's text the words
from 20 on stand inside the predicate that word 19 counts with, so each is proved as itself (`statusBlockWord_20` and those
after it), and the count is then that of the store entries in use. -/
theorem statusBlockWrites : Obligations.StatusBlockWrites := by
  refine ⟨fun s v h => ⟨?_, ?_, ?_, ?_, ?_, fun n => ?_⟩, fun c s w h => statusBlockWord_read h, ?_, fun s => alert_iff, ?_⟩
  · exact congrArg _ (statusWord_written h v (w := 6) (by decide) rfl)
  · exact congrArg _ (statusWord_written h v (w := 7) (by decide) rfl)
  · exact congrArg _ (statusWord_written h v (w := 23) (by decide) rfl)
  · exact congrArg _ (statusWord_written h v (w := 24) (by decide) rfl)
  · exact congrArg _ (statusWord_written h v (w := 25) (by decide) rfl)
  · match n with
    | 0 => exact congrArg _ (statusWord_written h v (w := 2) (by decide) rfl)
    | 1 => exact congrArg _ (statusWord_written h v (w := 3) (by decide) rfl)
    | 2 => exact congrArg _ (statusWord_written h v (w := 4) (by decide) rfl)
  · intro s W bit now orders
    obtain ⟨hlocal, huse⟩ := statusBlockWord_19 (s := s)
    refine ⟨statusBlockWord_0, rfl, statusBlockWord_argument, statusBlockWord_5, setWidth_word_toNat _,
      setWidth_word_toNat _, presentTime_toNat _, statusBlockWord_9, fun hnow => word_toNat (dayCount_lt hnow),
      statusBlockWord_tally, rfl, rfl, rfl, rfl, statusBlockWord_17, fun e => ?_, hlocal,
      huse.trans (List.countP_congr fun e _ => (and_iff_left ?_).symm.trans decide_eq_true_iff.symm)⟩
    · refine (statusBlockWord_18 e).trans ?_
      cases s.ilu.store.at e <;> rfl
    · refine ⟨fun g => ?_, statusBlockWord_21, rfl, rfl, rfl, rfl, fun h => ?_, statusBlockWord_27_lt, fun f => ?_,
        fun p hp => ?_, fun p t ht hp => ?_⟩
      · refine (statusBlockWord_20 g).trans ?_
        cases s.psu.groups.at g <;> rfl
      · refine (statusBlockWord_freshness h).trans ?_
        cases (s.rsu.houses.at h).freshness <;> rfl
      · refine (congrArg BitVec.toNat (statusBlockWord_feeder f)).trans ?_
        cases ht : s.tables with
        | none => rw [feederWord_unloaded ht]; rfl
        | some t => exact feederWord_toNat ht f
      · refine (congrArg BitVec.toNat (statusBlockWord_pump p)).trans ?_
        rw [pumpWord_unconfigured hp]
        rfl
      · intro r hwaiting hallowance
        exact (congrArg BitVec.toNat (statusBlockWord_pump p)).trans (pumpWord_configured ht hp hwaiting hallowance)
  · decide

end Sys2Proof.Machine
